-- ==== Sys2Proof/Word.lean ====
section
/-! DEFINITION. The widths of the machine's values (spec/00_scope.md R3, R9, R10): all unsigned. -/

namespace Sys2Proof

/-- A 4-bit field of an instruction: a register index `X` or `Y`, a row count `N`, a selector (R10). -/
abbrev Nibble := BitVec 4

/-- An 8-bit value: a data register, a timer, a memory byte, an immediate `NN` (R3). -/
abbrev Byte := BitVec 8

/-- The 12-bit address operand `NNN` (R10). -/
abbrev Addr12 := BitVec 12

/-- A 16-bit value: an instruction word, the program counter, the index register (R3). -/
abbrev Word := BitVec 16

/-- The index of the flag register VF (R22). -/
abbrev vf : Nibble := 15#4

end Sys2Proof
end

