-- ==== Sys2Proof/Syntax.lean ====
section
/-! DEFINITION. The instructions: one constructor for each row of spec/opcode_table.json (30_encoding.md R80, R81).
A field the core encodes but does not use (`N` of 5XYN and 9XYN, `Y` of the shifts, the operand bits of an
unimplemented word) is kept, so that no bit of a word is lost. -/

namespace Sys2Proof

/-- One instruction. `x`, `y` are register indices, `n` a low nibble, `nn` an immediate byte, `nnn` an address. -/
inductive Instr
  /-- `00E0` CLS (R100). -/
  | cls
  /-- `00EE` RET (R101). -/
  | ret
  /-- `1NNN` JP NNN (R103). -/
  | jp (nnn : Addr12)
  /-- `2NNN` CALL NNN (R104). -/
  | call (nnn : Addr12)
  /-- `3XNN` SE Vx, NN (R110). -/
  | seImm (x : Nibble) (nn : Byte)
  /-- `4XNN` SNE Vx, NN (R111). -/
  | sneImm (x : Nibble) (nn : Byte)
  /-- `5XYN` SE Vx, Vy; `n` is not decoded (R83, R112). -/
  | seReg (x y n : Nibble)
  /-- `6XNN` LD Vx, NN (R113). -/
  | ldImm (x : Nibble) (nn : Byte)
  /-- `7XNN` ADD Vx, NN (R114). -/
  | addImm (x : Nibble) (nn : Byte)
  /-- `8XY0` LD Vx, Vy (R120). -/
  | ldReg (x y : Nibble)
  /-- `8XY1` OR Vx, Vy (R121). -/
  | orReg (x y : Nibble)
  /-- `8XY2` AND Vx, Vy (R122). -/
  | andReg (x y : Nibble)
  /-- `8XY3` XOR Vx, Vy (R123). -/
  | xorReg (x y : Nibble)
  /-- `8XY4` ADD Vx, Vy (R124). -/
  | addReg (x y : Nibble)
  /-- `8XY5` SUB Vx, Vy (R125). -/
  | subReg (x y : Nibble)
  /-- `8XY6` SHR Vx; `y` is encoded and ignored (R126). -/
  | shr (x y : Nibble)
  /-- `8XY7` SUBN Vx, Vy (R127). -/
  | subnReg (x y : Nibble)
  /-- `8XYE` SHL Vx; `y` is encoded and ignored (R128). -/
  | shl (x y : Nibble)
  /-- `9XYN` SNE Vx, Vy; `n` is not decoded (R83, R140). -/
  | sneReg (x y n : Nibble)
  /-- `ANNN` LD I, NNN (R141). -/
  | ldI (nnn : Addr12)
  /-- `BNNN` JP V0, NNN (R142). -/
  | jpV0 (nnn : Addr12)
  /-- `CXNN` RND Vx, NN (R143). -/
  | rnd (x : Nibble) (nn : Byte)
  /-- `DXYN` DRW Vx, Vy, N (R150). -/
  | drw (x y n : Nibble)
  /-- `EX9E` SKP Vx (R160). -/
  | skp (x : Nibble)
  /-- `EXA1` SKNP Vx (R161). -/
  | sknp (x : Nibble)
  /-- `FX07` LD Vx, DT (R170). -/
  | ldFromDt (x : Nibble)
  /-- `FX0A` LD Vx, K (R171). -/
  | ldKey (x : Nibble)
  /-- `FX15` LD DT, Vx (R172). -/
  | ldDt (x : Nibble)
  /-- `FX18` LD ST, Vx (R173). -/
  | ldSt (x : Nibble)
  /-- `FX1E` ADD I, Vx (R174). -/
  | addI (x : Nibble)
  /-- `FX29` LD F, Vx (R175). -/
  | ldFont (x : Nibble)
  /-- `FX33` LD B, Vx (R176). -/
  | ldBcd (x : Nibble)
  /-- `FX55` LD [I], Vx (R177). -/
  | storeRegs (x : Nibble)
  /-- `FX65` LD Vx, [I] (R178). -/
  | loadRegs (x : Nibble)
  /-- `UNIMPL.0`: every other word of family 0x0 (R102). -/
  | unimpl0 (nnn : Addr12)
  /-- `UNIMPL.8`: the unassigned trailing nibbles of family 0x8 (R129). -/
  | unimpl8 (x y n : Nibble)
  /-- `UNIMPL.E`: the unassigned trailing bytes of family 0xE (R162). -/
  | unimplE (x : Nibble) (nn : Byte)
  /-- `UNIMPL.F`: the unassigned trailing bytes of family 0xF (R179). -/
  | unimplF (x : Nibble) (nn : Byte)
deriving DecidableEq, Repr

end Sys2Proof
end

