-- ==== Sys2Proof/WellFormed.lean ====
section
/-! DEFINITION. Which terms of `Instr` stand for a word: every operand of an instruction row may hold every value
(30_encoding.md R73); an unimplemented row holds only the words that no instruction row takes (R81). -/

namespace Sys2Proof

/-- The trailing nibbles of family 0x8 that select an instruction (R80). -/
def assigned8 : List Nibble := [0x0#4, 0x1#4, 0x2#4, 0x3#4, 0x4#4, 0x5#4, 0x6#4, 0x7#4, 0xE#4]

/-- The trailing bytes of family 0xE that select an instruction (R74). -/
def assignedE : List Byte := [0x9E#8, 0xA1#8]

/-- The trailing bytes of family 0xF that select an instruction (R80). -/
def assignedF : List Byte :=
  [0x07#8, 0x0A#8, 0x15#8, 0x18#8, 0x1E#8, 0x29#8, 0x33#8, 0x55#8, 0x65#8]

/-- The instruction stands for a word of the opcode map (R80, R81). -/
def Instr.wf : Instr → Bool
  | .cls => true
  | .ret => true
  | .jp _ => true
  | .call _ => true
  | .seImm _ _ => true
  | .sneImm _ _ => true
  | .seReg _ _ _ => true
  | .ldImm _ _ => true
  | .addImm _ _ => true
  | .ldReg _ _ => true
  | .orReg _ _ => true
  | .andReg _ _ => true
  | .xorReg _ _ => true
  | .addReg _ _ => true
  | .subReg _ _ => true
  | .shr _ _ => true
  | .subnReg _ _ => true
  | .shl _ _ => true
  | .sneReg _ _ _ => true
  | .ldI _ => true
  | .jpV0 _ => true
  | .rnd _ _ => true
  | .drw _ _ _ => true
  | .skp _ => true
  | .sknp _ => true
  | .ldFromDt _ => true
  | .ldKey _ => true
  | .ldDt _ => true
  | .ldSt _ => true
  | .addI _ => true
  | .ldFont _ => true
  | .ldBcd _ => true
  | .storeRegs _ => true
  | .loadRegs _ => true
  | .unimpl0 nnn => !(nnn == 0x0E0#12) && !(nnn == 0x0EE#12)
  | .unimpl8 _ _ n => !assigned8.contains n
  | .unimplE _ nn => !assignedE.contains nn
  | .unimplF _ nn => !assignedF.contains nn

end Sys2Proof
end

