-- ==== Sys2Proof/Decode.lean ====
section
/-! DEFINITION. The decoder (30_encoding.md R70 to R84), total on any bytes, and the encoder written from the same
opcode map (R80). -/

namespace Sys2Proof

/-! ### Fields of a word (R10, R72) -/

/-- `OP`, the leading nibble. -/
def opOf (w : Word) : Nibble := w.extractLsb' 12 4
/-- `X`. -/
def xOf (w : Word) : Nibble := w.extractLsb' 8 4
/-- `Y`. -/
def yOf (w : Word) : Nibble := w.extractLsb' 4 4
/-- `N`, the trailing nibble. -/
def nOf (w : Word) : Nibble := w.extractLsb' 0 4
/-- `NN`, the trailing byte. -/
def nnOf (w : Word) : Byte := w.extractLsb' 0 8
/-- `NNN`, the 12-bit address. -/
def nnnOf (w : Word) : Addr12 := w.extractLsb' 0 12

/-! ### Byte order (R46): the byte at the lower address is bits 15..8 -/

/-- The high byte of a 16-bit value. -/
def hiByte (w : Word) : Byte := w.extractLsb' 8 8
/-- The low byte of a 16-bit value. -/
def loByte (w : Word) : Byte := w.extractLsb' 0 8
/-- `hi ++ lo`, big-endian (R46). -/
def joinBytes (hi lo : Byte) : Word := hi ++ lo

/-! ### The decoder -/

/-- Family 0x0: the whole word selects (R74, R82). -/
def decode0 (w : Word) : Instr :=
  if w = 0x00E0#16 then .cls
  else if w = 0x00EE#16 then .ret
  else .unimpl0 (nnnOf w)

/-- Family 0x8: the trailing nibble selects (R74, R80, R81). -/
def decode8 (w : Word) : Instr :=
  if nOf w = 0x0#4 then .ldReg (xOf w) (yOf w)
  else if nOf w = 0x1#4 then .orReg (xOf w) (yOf w)
  else if nOf w = 0x2#4 then .andReg (xOf w) (yOf w)
  else if nOf w = 0x3#4 then .xorReg (xOf w) (yOf w)
  else if nOf w = 0x4#4 then .addReg (xOf w) (yOf w)
  else if nOf w = 0x5#4 then .subReg (xOf w) (yOf w)
  else if nOf w = 0x6#4 then .shr (xOf w) (yOf w)
  else if nOf w = 0x7#4 then .subnReg (xOf w) (yOf w)
  else if nOf w = 0xE#4 then .shl (xOf w) (yOf w)
  else .unimpl8 (xOf w) (yOf w) (nOf w)

/-- Family 0xE: the trailing byte selects (R74, R81). -/
def decodeE (w : Word) : Instr :=
  if nnOf w = 0x9E#8 then .skp (xOf w)
  else if nnOf w = 0xA1#8 then .sknp (xOf w)
  else .unimplE (xOf w) (nnOf w)

/-- Family 0xF: the trailing byte selects (R74, R80, R81). -/
def decodeF (w : Word) : Instr :=
  if nnOf w = 0x07#8 then .ldFromDt (xOf w)
  else if nnOf w = 0x0A#8 then .ldKey (xOf w)
  else if nnOf w = 0x15#8 then .ldDt (xOf w)
  else if nnOf w = 0x18#8 then .ldSt (xOf w)
  else if nnOf w = 0x1E#8 then .addI (xOf w)
  else if nnOf w = 0x29#8 then .ldFont (xOf w)
  else if nnOf w = 0x33#8 then .ldBcd (xOf w)
  else if nnOf w = 0x55#8 then .storeRegs (xOf w)
  else if nnOf w = 0x65#8 then .loadRegs (xOf w)
  else .unimplF (xOf w) (nnOf w)

/-- The instruction a word selects: dispatch on the leading nibble, then the family's second selector (R74). Every
word selects one (R80, R81). -/
def decodeWord (w : Word) : Instr :=
  if opOf w = 0x0#4 then decode0 w
  else if opOf w = 0x1#4 then .jp (nnnOf w)
  else if opOf w = 0x2#4 then .call (nnnOf w)
  else if opOf w = 0x3#4 then .seImm (xOf w) (nnOf w)
  else if opOf w = 0x4#4 then .sneImm (xOf w) (nnOf w)
  else if opOf w = 0x5#4 then .seReg (xOf w) (yOf w) (nOf w)
  else if opOf w = 0x6#4 then .ldImm (xOf w) (nnOf w)
  else if opOf w = 0x7#4 then .addImm (xOf w) (nnOf w)
  else if opOf w = 0x8#4 then decode8 w
  else if opOf w = 0x9#4 then .sneReg (xOf w) (yOf w) (nOf w)
  else if opOf w = 0xA#4 then .ldI (nnnOf w)
  else if opOf w = 0xB#4 then .jpV0 (nnnOf w)
  else if opOf w = 0xC#4 then .rnd (xOf w) (nnOf w)
  else if opOf w = 0xD#4 then .drw (xOf w) (yOf w) (nOf w)
  else if opOf w = 0xE#4 then decodeE w
  else decodeF w

/-- Why bytes are not decoded. -/
inductive DecodeReject
  /-- Fewer than two bytes are left: an instruction is exactly two (R70). -/
  | truncated
deriving DecidableEq, Repr

/-- The decoder on bytes, lowest address first: the instruction and the bytes after it, or the reason there is none. -/
def decode : List Byte → Except DecodeReject (Instr × List Byte)
  | hi :: lo :: rest => .ok (decodeWord (joinBytes hi lo), rest)
  | [_] => .error .truncated
  | [] => .error .truncated

/-! ### The encoder -/

/-- The word of an instruction: the fixed bits of its row and its operands in their places (R71, R80). -/
def encode : Instr → Word
  | .cls => 0x00E0#16
  | .ret => 0x00EE#16
  | .jp nnn => 0x1#4 ++ nnn
  | .call nnn => 0x2#4 ++ nnn
  | .seImm x nn => 0x3#4 ++ x ++ nn
  | .sneImm x nn => 0x4#4 ++ x ++ nn
  | .seReg x y n => 0x5#4 ++ x ++ y ++ n
  | .ldImm x nn => 0x6#4 ++ x ++ nn
  | .addImm x nn => 0x7#4 ++ x ++ nn
  | .ldReg x y => 0x8#4 ++ x ++ y ++ 0x0#4
  | .orReg x y => 0x8#4 ++ x ++ y ++ 0x1#4
  | .andReg x y => 0x8#4 ++ x ++ y ++ 0x2#4
  | .xorReg x y => 0x8#4 ++ x ++ y ++ 0x3#4
  | .addReg x y => 0x8#4 ++ x ++ y ++ 0x4#4
  | .subReg x y => 0x8#4 ++ x ++ y ++ 0x5#4
  | .shr x y => 0x8#4 ++ x ++ y ++ 0x6#4
  | .subnReg x y => 0x8#4 ++ x ++ y ++ 0x7#4
  | .shl x y => 0x8#4 ++ x ++ y ++ 0xE#4
  | .sneReg x y n => 0x9#4 ++ x ++ y ++ n
  | .ldI nnn => 0xA#4 ++ nnn
  | .jpV0 nnn => 0xB#4 ++ nnn
  | .rnd x nn => 0xC#4 ++ x ++ nn
  | .drw x y n => 0xD#4 ++ x ++ y ++ n
  | .skp x => 0xE#4 ++ x ++ 0x9E#8
  | .sknp x => 0xE#4 ++ x ++ 0xA1#8
  | .ldFromDt x => 0xF#4 ++ x ++ 0x07#8
  | .ldKey x => 0xF#4 ++ x ++ 0x0A#8
  | .ldDt x => 0xF#4 ++ x ++ 0x15#8
  | .ldSt x => 0xF#4 ++ x ++ 0x18#8
  | .addI x => 0xF#4 ++ x ++ 0x1E#8
  | .ldFont x => 0xF#4 ++ x ++ 0x29#8
  | .ldBcd x => 0xF#4 ++ x ++ 0x33#8
  | .storeRegs x => 0xF#4 ++ x ++ 0x55#8
  | .loadRegs x => 0xF#4 ++ x ++ 0x65#8
  | .unimpl0 nnn => 0x0#4 ++ nnn
  | .unimpl8 x y n => 0x8#4 ++ x ++ y ++ n
  | .unimplE x nn => 0xE#4 ++ x ++ nn
  | .unimplF x nn => 0xF#4 ++ x ++ nn

/-- The two bytes of an instruction, high byte at the lower address (R46, R70). -/
def encodeBytes (i : Instr) : List Byte := [hiByte (encode i), loByte (encode i)]

/-! ### The opcode map as data (R80, R81) -/

/-- A row of the opcode map. -/
structure OpcodeRow where
  /-- The row's mnemonic as spec/opcode_table.json spells it. -/
  mnemonic : String
  /-- The bits the row fixes. -/
  mask : Word
  /-- Their values. -/
  bits : Word
deriving DecidableEq, Repr

/-- The word has the row's fixed bits: `instr & mask = match` (R80). -/
def OpcodeRow.takes (r : OpcodeRow) (w : Word) : Bool := w &&& r.mask == r.bits

/-- Rows of families 0x0 to 0x7. -/
def rowsLow : List OpcodeRow :=
  [⟨"CLS", 0xFFFF, 0x00E0⟩, ⟨"RET", 0xFFFF, 0x00EE⟩, ⟨"JP_NNN", 0xF000, 0x1000⟩, ⟨"CALL_NNN", 0xF000, 0x2000⟩,
   ⟨"SE_Vx__NN", 0xF000, 0x3000⟩, ⟨"SNE_Vx__NN", 0xF000, 0x4000⟩, ⟨"SE_Vx__Vy", 0xF000, 0x5000⟩,
   ⟨"LD_Vx__NN", 0xF000, 0x6000⟩, ⟨"ADD_Vx__NN", 0xF000, 0x7000⟩]

/-- Rows of family 0x8. -/
def rows8 : List OpcodeRow :=
  [⟨"LD_Vx__Vy", 0xF00F, 0x8000⟩, ⟨"OR_Vx__Vy", 0xF00F, 0x8001⟩, ⟨"AND_Vx__Vy", 0xF00F, 0x8002⟩,
   ⟨"XOR_Vx__Vy", 0xF00F, 0x8003⟩, ⟨"ADD_Vx__Vy", 0xF00F, 0x8004⟩, ⟨"SUB_Vx__Vy", 0xF00F, 0x8005⟩,
   ⟨"SHR_Vx", 0xF00F, 0x8006⟩, ⟨"SUBN_Vx__Vy", 0xF00F, 0x8007⟩, ⟨"SHL_Vx", 0xF00F, 0x800E⟩]

/-- Rows of families 0x9 to 0xE. -/
def rowsHigh : List OpcodeRow :=
  [⟨"SNE_Vx__Vy", 0xF000, 0x9000⟩, ⟨"LD_I__NNN", 0xF000, 0xA000⟩, ⟨"JP_V0__NNN", 0xF000, 0xB000⟩,
   ⟨"RND_Vx__NN", 0xF000, 0xC000⟩, ⟨"DRW_Vx__Vy__N", 0xF000, 0xD000⟩, ⟨"SKP_Vx", 0xF0FF, 0xE09E⟩,
   ⟨"SKNP_Vx", 0xF0FF, 0xE0A1⟩]

/-- Rows of family 0xF. -/
def rowsF : List OpcodeRow :=
  [⟨"LD_Vx__DT", 0xF0FF, 0xF007⟩, ⟨"LD_Vx__K", 0xF0FF, 0xF00A⟩, ⟨"LD_DT__Vx", 0xF0FF, 0xF015⟩,
   ⟨"LD_ST__Vx", 0xF0FF, 0xF018⟩, ⟨"ADD_I__Vx", 0xF0FF, 0xF01E⟩, ⟨"LD_F__Vx", 0xF0FF, 0xF029⟩,
   ⟨"LD_B__Vx", 0xF0FF, 0xF033⟩, ⟨"LD__I___Vx", 0xF0FF, 0xF055⟩, ⟨"LD_Vx___I", 0xF0FF, 0xF065⟩]

/-- The 34 instruction rows (R80). -/
def instructionRows : List OpcodeRow := rowsLow ++ rows8 ++ rowsHigh ++ rowsF

/-- The four fallback rows, which apply to a word only when no instruction row takes it (R81). -/
def fallbackRows : List OpcodeRow :=
  [⟨"UNIMPL.0", 0xF000, 0x0000⟩, ⟨"UNIMPL.8", 0xF000, 0x8000⟩, ⟨"UNIMPL.E", 0xF000, 0xE000⟩,
   ⟨"UNIMPL.F", 0xF000, 0xF000⟩]

/-- The mnemonic of the row a constructor stands for. -/
def Instr.mnemonic : Instr → String
  | .cls => "CLS"
  | .ret => "RET"
  | .jp _ => "JP_NNN"
  | .call _ => "CALL_NNN"
  | .seImm _ _ => "SE_Vx__NN"
  | .sneImm _ _ => "SNE_Vx__NN"
  | .seReg _ _ _ => "SE_Vx__Vy"
  | .ldImm _ _ => "LD_Vx__NN"
  | .addImm _ _ => "ADD_Vx__NN"
  | .ldReg _ _ => "LD_Vx__Vy"
  | .orReg _ _ => "OR_Vx__Vy"
  | .andReg _ _ => "AND_Vx__Vy"
  | .xorReg _ _ => "XOR_Vx__Vy"
  | .addReg _ _ => "ADD_Vx__Vy"
  | .subReg _ _ => "SUB_Vx__Vy"
  | .shr _ _ => "SHR_Vx"
  | .subnReg _ _ => "SUBN_Vx__Vy"
  | .shl _ _ => "SHL_Vx"
  | .sneReg _ _ _ => "SNE_Vx__Vy"
  | .ldI _ => "LD_I__NNN"
  | .jpV0 _ => "JP_V0__NNN"
  | .rnd _ _ => "RND_Vx__NN"
  | .drw _ _ _ => "DRW_Vx__Vy__N"
  | .skp _ => "SKP_Vx"
  | .sknp _ => "SKNP_Vx"
  | .ldFromDt _ => "LD_Vx__DT"
  | .ldKey _ => "LD_Vx__K"
  | .ldDt _ => "LD_DT__Vx"
  | .ldSt _ => "LD_ST__Vx"
  | .addI _ => "ADD_I__Vx"
  | .ldFont _ => "LD_F__Vx"
  | .ldBcd _ => "LD_B__Vx"
  | .storeRegs _ => "LD__I___Vx"
  | .loadRegs _ => "LD_Vx___I"
  | .unimpl0 _ => "UNIMPL.0"
  | .unimpl8 _ _ _ => "UNIMPL.8"
  | .unimplE _ _ => "UNIMPL.E"
  | .unimplF _ _ => "UNIMPL.F"

/-! ### The opcode table's own numbering -/

/-- The instruction the decoder reads from an instruction whose bits are `w`, numbered as spec/opcode_table.json
numbers them: one 16-bit word, laid out high byte first (R46); bits at `nbits` and above are zero. -/
def decodeTableWord (nbits w : Nat) : Option Instr :=
  let word : Word := BitVec.ofNat 16 (w % 2 ^ nbits)
  match decode [hiByte word, loByte word] with
  | .ok (i, _) => some i
  | .error _ => none

end Sys2Proof
end

