-- ==== Sys2Proof/Config.lean ====
section
/-! DEFINITION. What is fixed for a machine and no state of it: the sizes of spec/00_scope.md R3, the named
parameters of spec/92_eei_decisions.md ('Parameters a model takes as arguments'; their chosen values stand in
Machine/Params.lean), and the free values, which have no body: no proof can know one. -/

namespace Sys2Proof

/-! ### Sizes (R3) -/

/-- `MEM_SIZE`: bytes of memory, addresses 0x000..0xFFF. -/
abbrev memSize : Nat := 4096
/-- `PROG_BASE`: first byte of the program region and entry point (R241). -/
abbrev progBase : Nat := 0x200
/-- `STACK_BASE`: first byte of the stack region. -/
abbrev stackBase : Nat := 0xEA0
/-- `STACK_SLOTS`: return-address slots of two bytes each. -/
abbrev stackSlots : Nat := 24
/-- `PROG_CAP`: the largest loadable program, `STACK_BASE − PROG_BASE` (R42). -/
abbrev progCap : Nat := 3232
/-- `FB_ROWS`. -/
abbrev fbRows : Nat := 32
/-- `FB_COLS`. -/
abbrev fbCols : Nat := 64
/-- `FONT_BYTES`: 16 glyphs of 5 bytes. -/
abbrev fontBytes : Nat := 80

/-! ### Named parameters -/

/-- `VF_WRITE_ORDER` (R130, D7): which write remains when a flag-writing ALU form names VF as destination. -/
inductive VfWriteOrder
  /-- The result is written, then the flag (the spec's default). -/
  | flagLast
  /-- The flag is written, then the result. -/
  | resultLast
deriving DecidableEq, Repr

/-- `DRAW_FLAG_POLICY` (R153, D13): what DRW writes to VF. -/
inductive DrawFlagPolicy
  /-- 1 if and only if a pixel went from set to unset (the spec's default). -/
  | standard
  /-- 1 after every draw, as the original program does. -/
  | sourceAlwaysOne
deriving DecidableEq, Repr

/-- The parameters a model takes as configuration (R3). -/
structure Params where
  /-- `FONT_BASE`: address of glyph 0, with `FONT_BASE + 80 ≤ 0x200` (R41). -/
  fontBase : Nat
  /-- `FONT`: the 80 glyph bytes (R45). -/
  font : List Byte
  vfWriteOrder : VfWriteOrder
  drawFlagPolicy : DrawFlagPolicy
  /-- `LOADSTORE_INCREMENTS_I` (R177, R178, D19). -/
  loadStoreIncrementsI : Bool
deriving DecidableEq, Repr

/-- What R3 and R41 ask of the parameters. -/
def Params.wf (p : Params) : Bool :=
  p.font.length == fontBytes && decide (p.fontBase + fontBytes ≤ progBase)

/-! ### Free values: the inputs the spec leaves unconstrained, one for each step (R5, R7, R8) -/

/-- How many timer ticks happen right before the step (R5, R209, 93 U16). -/
opaque Config.freeTicks : Nat → Nat
/-- The keypad's answers: bit `k` is the answer for code `k`, codes 16..255 included (R212, 93 U4). -/
opaque Config.freeKeys : Nat → BitVec 256
/-- The byte `CXNN` draws (R143, R213, 93 U5). -/
opaque Config.freeRnd : Nat → Byte
/-- The draw among the pressed keys, `KEY_CHOICE` (R171, 93 U6). -/
opaque Config.freePick : Nat → Nat

end Sys2Proof
end

