-- ==== Sys2Proof/Machine/Params.lean ====
section
/-! DEFINITION. The values chosen for the named parameters: the spec's defaults (00_scope.md R3; log 7 to 11), and
the font table of 20_memory.md R45. -/

namespace Sys2Proof.Machine

/-- Glyphs 0 to 3 (R45). -/
def font03 : List Byte :=
  [0xF0, 0x90, 0x90, 0x90, 0xF0, 0x20, 0x60, 0x20, 0x20, 0x70,
   0xF0, 0x10, 0xF0, 0x80, 0xF0, 0xF0, 0x10, 0xF0, 0x10, 0xF0]

/-- Glyphs 4 to 7 (R45). -/
def font47 : List Byte :=
  [0x90, 0x90, 0xF0, 0x10, 0x10, 0xF0, 0x80, 0xF0, 0x10, 0xF0,
   0xF0, 0x80, 0xF0, 0x90, 0xF0, 0xF0, 0x10, 0x20, 0x40, 0x40]

/-- Glyphs 8 to B (R45). -/
def font8B : List Byte :=
  [0xF0, 0x90, 0xF0, 0x90, 0xF0, 0xF0, 0x90, 0xF0, 0x10, 0xF0,
   0xF0, 0x90, 0xF0, 0x90, 0x90, 0xE0, 0x90, 0xE0, 0x90, 0xE0]

/-- Glyphs C to F (R45). -/
def fontCF : List Byte :=
  [0xF0, 0x80, 0x80, 0x80, 0xF0, 0xE0, 0x90, 0x90, 0x90, 0xE0,
   0xF0, 0x80, 0xF0, 0x80, 0xF0, 0xF0, 0x80, 0xF0, 0x80, 0x80]

/-- The parameters of this machine. PRESUMED for the font bytes (the spec's G1), DESIGN CHOICE for the others (the
spec's own defaults D4, D7, D13, D19). -/
def params : Params where
  fontBase := 0x000
  font := font03 ++ font47 ++ font8B ++ fontCF
  vfWriteOrder := .flagLast
  drawFlagPolicy := .standard
  loadStoreIncrementsI := false

end Sys2Proof.Machine
end

