-- ==== Sys2Proof/Machine/State.lean ====
section
/-! DEFINITION. The machine's state (10_state.md, all of it), its events, faults and refusals, and the state after
reset. All plain data. -/

namespace Sys2Proof.Machine

/-- Memory as (address, byte) pairs in one canonical form; what an unlisted address reads as is
`Memory.unlisted` (Machine/Memory.lean). -/
abbrev Memory := List Host.Cell

/-- The frame buffer: 32 rows of 64 pixels; column `c` of a row is its `c`-th bit from the most significant one
(R30; log 23). -/
abbrev FrameBuffer := Vector (BitVec 64) 32

/-- The causes of a fatal condition (60_exceptions.md R201). -/
inductive FatalCause
  /-- Code 1: `2NNN` with SP = 24. -/
  | stackOverflow
  /-- Code 2: `00EE` with SP = 0. -/
  | stackUnderflow
  /-- Code 3: `DXYN`, `FX33`, `FX55`, `FX65` when an accessed address is 4096 or above. -/
  | memOutOfBounds
  /-- Code 4: the host's `Load` of more than 3232 bytes. -/
  | programTooLarge
deriving DecidableEq, Repr

/-- The numeric code of a cause; 0 stands for no fatal condition (R201). -/
def FatalCause.code : FatalCause → Nat
  | .stackOverflow => 1
  | .stackUnderflow => 2
  | .memOutOfBounds => 3
  | .programTooLarge => 4

/-- The core's output events (R214). -/
inductive Event
  /-- `00E0`: the display collaborator's `clear()`. -/
  | displayClear
  /-- `DXYN`: the display collaborator's `present(frame_buffer)`. -/
  | present (fb : FrameBuffer)
  /-- `Diag(UNIMPLEMENTED, pc, instr)`: an unimplemented encoding was met (30_encoding.md R81). -/
  | diagUnimplemented (pc instr : Word)
  /-- `Fatal(cause, pc, instr)`: a fatal condition ended the run (R203). -/
  | fatal (cause : FatalCause) (pc instr : Word)
deriving DecidableEq, Repr

/-- The oracle answers one step sees (00_scope.md R8), and the draw that settles `KEY_CHOICE` (R171). -/
structure Env where
  /-- Bit `k` is `env.key(k)`, for every code 0..255 (R212). -/
  keys : BitVec 256
  /-- `env.rnd` (R213). -/
  rnd : Byte
  /-- Which of the pressed keys FX0A reports. -/
  pick : Nat
deriving DecidableEq, Repr

/-- What the outside supplies for one step: the timer ticks right before it (R5) and the oracle answers (R8). -/
structure Input where
  ticks : Nat
  env : Env
deriving DecidableEq, Repr

/-- The state. `v` to `fatal` are the spec's (10_state.md R20 to R34); `events` is the record of the core's outputs
(R214); `env`, `inputs` and `draws` are the model's own and carry the unconstrained inputs (log 1, 2, 4). -/
structure State where
  /-- V0..VF (R20). -/
  v : Vector Byte 16
  /-- I (R26). -/
  i : Word
  /-- PC (R23). -/
  pc : Word
  /-- DT (R27). -/
  dt : Byte
  /-- ST (R28). -/
  st : Byte
  /-- SP, 0..24 (R29). -/
  sp : Fin 25
  /-- MEM (R31). -/
  mem : Memory
  /-- FB (R30). -/
  fb : FrameBuffer
  /-- PLEN, 0..3232 (R33). -/
  plen : Fin 3233
  /-- FATAL; `none` is code 0 (R34). -/
  fatal : Option FatalCause
  /-- The events emitted, oldest first (R214). -/
  events : List Event
  /-- The oracle answers of the step in progress (R8). -/
  env : Env
  /-- Inputs of coming steps that are written down, next first; after them the free values of Config apply. -/
  inputs : List Input
  /-- How many inputs have been taken. -/
  draws : Nat
deriving DecidableEq, Repr

/-- Why the machine stops. -/
inductive Fault
  /-- A fatal condition of R201, raised by RET, CALL, DRW, LD B, LD [I], LD Vx [I] or the host's Load; `after` is
  the state it leaves, with FATAL latched and the Fatal event emitted (R203, R204). Safe: the spec says that the run
  ends there and that a model maps it to its fault (R205). -/
  | fatal (cause : FatalCause) (after : State)
  /-- Raised by a step when FATAL = 0 and PC is outside the loaded program: NOT an error but the normal end of a run
  (70_reset_and_hazards.md R246); `final` is the state of that end, in which no step is enabled (R245, D31). Safe:
  the spec gives the machine no transition there. -/
  | halted (final : State)
  /-- Raised by a step when FATAL is already set: no step is enabled (R205, R245). Safe: no transition there. -/
  | stoppedByFatal (final : State)
deriving DecidableEq, Repr

/-- Why the model gives no meaning. -/
inductive Refusal
  /-- An arm of `exec` that has no meaning yet. Safe. (No arm of this model.) -/
  | notModelled (mnemonic : String)
  /-- Raised by the host operation Load on a machine that is not in the reset state, which the spec does not define
  (70_reset_and_hazards.md R243, 93 U13). Safe. -/
  | loadOutsideReset
deriving DecidableEq, Repr

/-- The machine right after reset (10_state.md R36). The values of `events`, `env`, `inputs` and `draws`, which are
not the spec's, are a DESIGN CHOICE (log 4, 13). -/
def State.reset : State where
  v := Vector.replicate 16 0x00#8
  i := 0x0000#16
  pc := 0x0200#16
  dt := 0x00#8
  st := 0x00#8
  sp := 0
  mem := []
  fb := Vector.replicate 32 0#64
  plen := 0
  fatal := none
  events := []
  env := { keys := 0#256, rnd := 0x00#8, pick := 0 }
  inputs := []
  draws := 0

end Sys2Proof.Machine
end

