-- ==== Sys2Proof/Machine/Memory.lean ====
section
/-! DEFINITION. MEM: what an unlisted address reads as, reading and writing a byte, the canonical form
(10_state.md R31, R36; 20_memory.md R40, R49, R56). -/

namespace Sys2Proof.Machine

/-- What an address that is not listed reads as: the reset contents, a font byte inside the font region and 0x00
elsewhere (R36, R41, R45; log 12). -/
def Memory.unlisted (a : Nat) : Byte :=
  if params.fontBase ≤ a then params.font.getD (a - params.fontBase) 0x00#8 else 0x00#8

/-- The byte at an address: what was last written there (R56). -/
def Memory.read : Memory → Nat → Byte
  | [], a => Memory.unlisted a
  | c :: m, a => if c.1 = a then c.2 else Memory.read m a

/-- The memory without any entry for the address. -/
def Memory.erase : Memory → Nat → Memory
  | [], _ => []
  | c :: m, a => if c.1 = a then Memory.erase m a else c :: Memory.erase m a

/-- The cell put at its place in the rising order. -/
def Memory.insert : Memory → Host.Cell → Memory
  | [], c => [c]
  | d :: m, c => if c.1 < d.1 then c :: d :: m else d :: Memory.insert m c

/-- One byte stored. A byte equal to what the unlisted address reads as removes the entry, so that equal memories
are equal lists. -/
def Memory.write (m : Memory) (a : Nat) (b : Byte) : Memory :=
  if b = Memory.unlisted a then Memory.erase m a else Memory.insert (Memory.erase m a) (a, b)

/-- Bytes stored at ascending addresses from `a` (R55). -/
def Memory.writeBytes : Memory → Nat → List Byte → Memory
  | m, _, [] => m
  | m, a, b :: bs => Memory.writeBytes (Memory.write m a b) (a + 1) bs

/-- The canonical form: addresses strictly rising, inside [0, 4096) (R49), no entry equal to what the address would
read as unlisted. -/
abbrev Memory.wf (m : Memory) : Prop :=
  List.Pairwise (fun c d : Host.Cell => c.1 < d.1) m ∧
    ∀ c ∈ m, c.1 < memSize ∧ c.2 ≠ Memory.unlisted c.1

end Sys2Proof.Machine
end

