-- ==== Sys2Proof/Machine/Operands.lean ====
section
/-! DEFINITION. The operand forms (00_scope.md R10, R11; 30_encoding.md R73): a data register, an immediate byte or
address used as it is, the register block V0..Vx, a byte in memory at I plus an offset, a pixel. -/

namespace Sys2Proof.Machine

/-- `V[x]` read (R11, R20). -/
def State.getV (s : State) (x : Nibble) : Byte := s.v[x.toNat]'x.isLt

/-- `V[x] <- b` (R11, R20). No register is hardwired. -/
def State.setV (s : State) (x : Nibble) (b : Byte) : State := { s with v := s.v.set x.toNat b x.isLt }

/-- The registers V0..Vx in ascending order, inclusive (R21, R177). -/
def State.block (s : State) (x : Nibble) : List Byte := s.v.toList.take (x.toNat + 1)

/-- A 12-bit address zero-extended to PC or I (R73). -/
def zext12 (nnn : Addr12) : Word := nnn.setWidth 16

/-- A byte zero-extended to 16 bits (R11). -/
def zext8 (b : Byte) : Word := b.setWidth 16

/-- The address `I + k`, on unbounded naturals (R49). -/
def State.addrI (s : State) (k : Nat) : Nat := s.i.toNat + k

/-- All of the `n` addresses from `a` lie in [0, 4096) (R49). -/
def inBounds (a n : Nat) : Bool := decide (n = 0 ∨ a + n ≤ memSize)

/-- `FB[r][c]` (R30). -/
def State.pixel (s : State) (r : Fin 32) (c : Fin 64) : Bool := (s.fb[r.val]'r.isLt).getMsbD c.val

/-- The registers after the bytes at `a`, `a + 1`, … are loaded into the first `n` of them, ascending (R178). -/
def loadBlock (m : Memory) (a : Nat) : Nat → Vector Byte 16 → Vector Byte 16
  | 0, v => v
  | n + 1, v => (loadBlock m a n v).setIfInBounds n (Memory.read m (a + n))

end Sys2Proof.Machine
end

