-- ==== Sys2Proof/Machine/Flags.lean ====
section
/-! DEFINITION. Every flag computation (10_state.md R22) and the order in which a result and a flag are written
(42_alu_family_8.md R130). -/

namespace Sys2Proof.Machine

/-- The value a flag writes to VF: 0 or 1 (R22). -/
def flagByte (f : Bool) : Byte := if f then 0x01#8 else 0x00#8

/-- Carry out of bit 7: the sum exceeds 255 (R124). -/
def carryFlag (a b : Byte) : Bool := decide (a.toNat + b.toNat > 255)

/-- Minuend strictly greater than subtrahend (R125, R127, R131). -/
def greaterFlag (a b : Byte) : Bool := decide (a.toNat > b.toNat)

/-- The bit a right shift moves out: bit 0 (R126). -/
def shiftOutRight (a : Byte) : Bool := a.getLsbD 0

/-- The bit a left shift moves out: bit 7 (R128). -/
def shiftOutLeft (a : Byte) : Bool := a.getLsbD 7

/-- The new index exceeds the addressable range, before the 16-bit wrap (R174). -/
def indexFlag (i : Word) (b : Byte) : Bool := decide (i.toNat + b.toNat > 0x0FFF)

/-- What DRW reports, by the policy (R153): a collision, or 1 always. -/
def drawFlag (p : DrawFlagPolicy) (collision : Bool) : Bool :=
  match p with
  | .standard => collision
  | .sourceAlwaysOne => true

/-- `V[15] <- flag` (R22). -/
def State.setFlag (s : State) (f : Bool) : State := s.setV vf (flagByte f)

/-- The result to `V[x]` and the flag to `V[15]`, in the order the parameter names (R130). -/
def State.setResultFlag (s : State) (order : VfWriteOrder) (x : Nibble) (res : Byte) (f : Bool) : State :=
  match order with
  | .flagLast => (s.setV x res).setFlag f
  | .resultLast => (s.setFlag f).setV x res

end Sys2Proof.Machine
end

