-- ==== Sys2Proof/Machine/Ops.lean ====
section
/-! DEFINITION. The named operations the meanings share: the ways PC ends (10_state.md R24), events, raising a fatal
condition (60_exceptions.md R203 to R206), the stack (20_memory.md R51 to R53), the fetch (30_encoding.md R75), the
enabling condition (70_reset_and_hazards.md R245), the timer tick (R209), and taking a step's input. -/

namespace Sys2Proof.Machine

/-! ### PC (R24) -/

/-- `next`: the auto-advance. -/
def State.advance (s : State) : State := { s with pc := s.pc + 2#16 }

/-- `skip`: the auto-advance and one skipped instruction. -/
def State.skip (s : State) : State := { s with pc := s.pc + 4#16 }

/-- `if c then skip else next`. -/
def State.skipIf (s : State) (c : Bool) : State := if c then s.skip else s.advance

/-- `pc <- target`, no auto-advance. -/
def State.jump (s : State) (target : Word) : State := { s with pc := target }

/-! ### The other elements -/

/-- `I <- a`. -/
def State.setI (s : State) (a : Word) : State := { s with i := a }

/-- `DT <- b`. -/
def State.setDt (s : State) (b : Byte) : State := { s with dt := b }

/-- `ST <- b`. -/
def State.setSt (s : State) (b : Byte) : State := { s with st := b }

/-- Bytes stored to MEM from address `a`, ascending (R55). The caller has checked the bounds (R49). -/
def State.store (s : State) (a : Nat) (bs : List Byte) : State :=
  { s with mem := Memory.writeBytes s.mem a bs }

/-- A new frame buffer. -/
def State.setFb (s : State) (fb : FrameBuffer) : State := { s with fb := fb }

/-- `emit e` (R214). -/
def State.emit (s : State) (e : Event) : State := { s with events := s.events ++ [e] }

/-! ### Fatal conditions: the machine's one kind of exception -/

/-- The state a fatal condition leaves: every element as before, PC included, but for FATAL, and the event
`Fatal(cause, pc, instr)` emitted (R203, R204). -/
def State.latchFatal (s : State) (cause : FatalCause) (pc instr : Word) : State :=
  State.emit { s with fatal := some cause } (.fatal cause pc instr)

/-- `raise Fatal(cause)` by the instruction at PC (R203 to R205): no control transfer, the run ends. There is no
return from it; only Reset clears FATAL (R206). -/
def raiseFatal (cause : FatalCause) (i : Instr) (s : State) : Host.Outcome State Fault Refusal :=
  .fault (.fatal cause (s.latchFatal cause s.pc (encode i)))

/-- The effect of an unimplemented encoding: the diagnostic, and PC + 2 (30_encoding.md R81). -/
def unimplemented (i : Instr) (s : State) : State :=
  (s.emit (.diagUnimplemented s.pc (encode i))).advance

/-! ### The stack -/

/-- The address of stack slot `k` (R51). -/
def slotAddr (k : Nat) : Nat := stackBase + 2 * k

/-- `Push(v)`: `none` when SP = 24; else the slot SP written high byte first, and SP + 1 (R52). -/
def State.push (s : State) (v : Word) : Option State :=
  if h : s.sp.val < stackSlots then
    some { s with
      mem := Memory.writeBytes s.mem (slotAddr s.sp.val) [hiByte v, loByte v]
      sp := ⟨s.sp.val + 1, Nat.succ_lt_succ h⟩ }
  else none

/-- `Pop()`: `none` when SP = 0; else SP − 1 and the two bytes of that slot, which stay in memory (R53). -/
def State.pop (s : State) : Option (Word × State) :=
  match s.sp with
  | ⟨0, _⟩ => none
  | ⟨k + 1, h⟩ =>
    some (joinBytes (Memory.read s.mem (slotAddr k)) (Memory.read s.mem (slotAddr k + 1)),
      { s with sp := ⟨k, Nat.lt_of_succ_lt h⟩ })

/-! ### The step's parts -/

/-- `StepEnabled`'s second half: PC is inside the loaded program (R245). -/
def State.pcInProgram (s : State) : Bool :=
  decide (progBase ≤ s.pc.toNat ∧ s.pc.toNat < progBase + s.plen.val)

/-- `StepEnabled` (R245). -/
def State.stepEnabled (s : State) : Bool := s.fatal.isNone && s.pcInProgram

/-- The fetch: `MEM[PC] ++ MEM[PC+1]` (R46, R75). -/
def State.fetchWord (s : State) : Word :=
  joinBytes (Memory.read s.mem s.pc.toNat) (Memory.read s.mem (s.pc.toNat + 1))

/-- One tick of one timer: down by one, and a timer at zero stays there (R209). -/
def tickDown (t : Byte) : Byte := if t = 0x00#8 then t else t - 0x01#8

/-- `n` ticks of one timer. -/
def countDown : Nat → Byte → Byte
  | 0, t => t
  | n + 1, t => countDown n (tickDown t)

/-- `TimerTick`, the one step of the external timer agent (R209). -/
def State.timerTick (s : State) : State := { s with dt := tickDown s.dt, st := tickDown s.st }

/-- `n` timer ticks in a row. -/
def State.timerTicks (s : State) (n : Nat) : State := { s with dt := countDown n s.dt, st := countDown n s.st }

/-- The input of the next step: the first one written down, or the free values (R5, R7, R8; log 1, 2). -/
def State.nextInput (s : State) : Input :=
  match s.inputs with
  | [] =>
    { ticks := Config.freeTicks s.draws
      env := { keys := Config.freeKeys s.draws, rnd := Config.freeRnd s.draws, pick := Config.freePick s.draws } }
  | i :: _ => i

/-- What happens between two steps of the core: the next input is taken, its timer ticks happen (R5), its oracle
answers become those of the step (R8). -/
def State.takeInput (s : State) : State :=
  { s.timerTicks s.nextInput.ticks with
    env := s.nextInput.env
    inputs := s.inputs.tail
    draws := s.draws + 1 }

end Sys2Proof.Machine
end

