-- ==== Sys2Proof/Machine/Alu.lean ====
section
/-! DEFINITION. Family 0x8: register arithmetic and logic (42_alu_family_8.md). Operands are read before anything is
written; the five flag-writing forms write the result and the flag through `State.setResultFlag` (R130; log 9). -/

namespace Sys2Proof.Machine

/-- `LD Vx, Vy` (R120). -/
def execLdReg (x y : Nibble) (s : State) : Host.Outcome State Fault Refusal :=
  .next (s.setV x (s.getV y)).advance

/-- `OR Vx, Vy` (R121). VF is not written. -/
def execOrReg (x y : Nibble) (s : State) : Host.Outcome State Fault Refusal :=
  .next (s.setV x (s.getV x ||| s.getV y)).advance

/-- `AND Vx, Vy` (R122). VF is not written. -/
def execAndReg (x y : Nibble) (s : State) : Host.Outcome State Fault Refusal :=
  .next (s.setV x (s.getV x &&& s.getV y)).advance

/-- `XOR Vx, Vy` (R123). VF is not written. -/
def execXorReg (x y : Nibble) (s : State) : Host.Outcome State Fault Refusal :=
  .next (s.setV x (s.getV x ^^^ s.getV y)).advance

/-- `ADD Vx, Vy` (R124): the low 8 bits, and the carry. -/
def execAddReg (x y : Nibble) (s : State) : Host.Outcome State Fault Refusal :=
  .next (s.setResultFlag params.vfWriteOrder x (s.getV x + s.getV y) (carryFlag (s.getV x) (s.getV y))).advance

/-- `SUB Vx, Vy` (R125): `V[x] − V[y]` modulo 256, and strictly greater. -/
def execSubReg (x y : Nibble) (s : State) : Host.Outcome State Fault Refusal :=
  .next (s.setResultFlag params.vfWriteOrder x (s.getV x - s.getV y) (greaterFlag (s.getV x) (s.getV y))).advance

/-- `SHR Vx` (R126): right by one; Y is ignored. -/
def execShr (x : Nibble) (s : State) : Host.Outcome State Fault Refusal :=
  .next (s.setResultFlag params.vfWriteOrder x (s.getV x >>> 1) (shiftOutRight (s.getV x))).advance

/-- `SUBN Vx, Vy` (R127): `V[y] − V[x]` modulo 256, and strictly greater. -/
def execSubnReg (x y : Nibble) (s : State) : Host.Outcome State Fault Refusal :=
  .next (s.setResultFlag params.vfWriteOrder x (s.getV y - s.getV x) (greaterFlag (s.getV y) (s.getV x))).advance

/-- `SHL Vx` (R128): left by one; Y is ignored. -/
def execShl (x : Nibble) (s : State) : Host.Outcome State Fault Refusal :=
  .next (s.setResultFlag params.vfWriteOrder x (s.getV x <<< 1) (shiftOutLeft (s.getV x))).advance

/-- `UNIMPL.8` (R129). -/
def execUnimpl8 (x y n : Nibble) (s : State) : Host.Outcome State Fault Refusal :=
  .next (unimplemented (.unimpl8 x y n) s)

end Sys2Proof.Machine
end

