-- ==== Sys2Proof/Machine/Draw.lean ====
section
/-! DEFINITION. Family 0xD: the sprite draw (44_draw_family_D.md R150 to R156). -/

namespace Sys2Proof.Machine

/-- The pixels of a screen row that one sprite byte covers from column `x0` on: bit 7 of the byte is the leftmost,
and what would pass column 63 is cut off (R152, R154). -/
def rowMask (b : Byte) (x0 : Nat) : BitVec 64 := (b.setWidth 64 <<< 56) >>> x0

/-- The first `n` sprite rows, ascending, XORed onto the frame buffer from row `y0`, and whether a pixel went from
1 to 0 (R150, R153, R154). Sprite row `k` is the byte at address `a + k`. -/
def drawRows (m : Memory) (a x0 y0 : Nat) : Nat → FrameBuffer → FrameBuffer × Bool
  | 0, fb => (fb, false)
  | n + 1, fb =>
    let p := drawRows m a x0 y0 n fb
    let row := p.1[y0 + n]?.getD 0#64
    let mask := rowMask (Memory.read m (a + n)) x0
    (p.1.setIfInBounds (y0 + n) (row ^^^ mask), p.2 || (row &&& mask) != 0#64)

/-- The start column, `V[x] mod 64` (R151). -/
def State.drawX (s : State) (x : Nibble) : Nat := (s.getV x).toNat % 64

/-- The start row, `V[y] mod 32` (R151). -/
def State.drawY (s : State) (y : Nibble) : Nat := (s.getV y).toNat % 32

/-- `R`, the number of sprite rows not clipped (R49, R152). -/
def State.drawCount (s : State) (y n : Nibble) : Nat := min n.toNat (32 - s.drawY y)

/-- `DRW Vx, Vy, N` (R150): the sprite at I drawn by XOR, the collision to VF, the event Present with the new frame
buffer; or MEM_OUT_OF_BOUNDS when a row that is not clipped lies at 4096 or above. -/
def execDrw (x y n : Nibble) (s : State) : Host.Outcome State Fault Refusal :=
  if inBounds (s.addrI 0) (s.drawCount y n) then
    let p := drawRows s.mem (s.addrI 0) (s.drawX x) (s.drawY y) (s.drawCount y n) s.fb
    .next (((s.setFb p.1).setFlag (drawFlag params.drawFlagPolicy p.2)).emit (.present p.1)).advance
  else raiseFatal .memOutOfBounds (.drw x y n) s

end Sys2Proof.Machine
end

