-- ==== Sys2Proof/Machine/Flow.lean ====
section
/-! DEFINITION. Families 0x0, 0x1, 0x2: clear, return, jump, call (40_flow_family_0_1_2.md). -/

namespace Sys2Proof.Machine

/-- `CLS` (R100): every pixel 0, the event DisplayClear. -/
def execCls (s : State) : Host.Outcome State Fault Refusal :=
  .next ((s.setFb (Vector.replicate 32 0#64)).emit .displayClear).advance

/-- `RET` (R101): the popped value to PC, or STACK_UNDERFLOW. -/
def execRet (s : State) : Host.Outcome State Fault Refusal :=
  match s.pop with
  | some (target, t) => .next (t.jump target)
  | none => raiseFatal .stackUnderflow .ret s

/-- `JP NNN` (R103). -/
def execJp (nnn : Addr12) (s : State) : Host.Outcome State Fault Refusal :=
  .next (s.jump (zext12 nnn))

/-- `CALL NNN` (R104): `pc + 2` pushed and `NNN` to PC, or STACK_OVERFLOW. -/
def execCall (nnn : Addr12) (s : State) : Host.Outcome State Fault Refusal :=
  match s.push (s.pc + 2#16) with
  | some t => .next (t.jump (zext12 nnn))
  | none => raiseFatal .stackOverflow (.call nnn) s

/-- `UNIMPL.0` (R102). -/
def execUnimpl0 (nnn : Addr12) (s : State) : Host.Outcome State Fault Refusal :=
  .next (unimplemented (.unimpl0 nnn) s)

end Sys2Proof.Machine
end

