-- ==== Sys2Proof/Machine/IndexJumpRnd.lean ====
section
/-! DEFINITION. Families 0x9 to 0xC: skip on registers, load index, jump with offset, random byte
(43_sne_index_jump_rnd_family_9_to_C.md). -/

namespace Sys2Proof.Machine

/-- `SNE Vx, Vy` (R140); the trailing nibble is not decoded (30_encoding.md R83; log 16). -/
def execSneReg (x y : Nibble) (s : State) : Host.Outcome State Fault Refusal :=
  .next (s.skipIf (s.getV x != s.getV y))

/-- `LD I, NNN` (R141). -/
def execLdI (nnn : Addr12) (s : State) : Host.Outcome State Fault Refusal :=
  .next (s.setI (zext12 nnn)).advance

/-- `JP V0, NNN` (R142): the 16-bit sum, not reduced modulo 4096. -/
def execJpV0 (nnn : Addr12) (s : State) : Host.Outcome State Fault Refusal :=
  .next (s.jump (zext12 nnn + zext8 (s.getV 0#4)))

/-- `RND Vx, NN` (R143): the step's random byte under the mask (log 1). -/
def execRnd (x : Nibble) (nn : Byte) (s : State) : Host.Outcome State Fault Refusal :=
  .next (s.setV x (s.env.rnd &&& nn)).advance

end Sys2Proof.Machine
end

