-- ==== Sys2Proof/Machine/Keypad.lean ====
section
/-! DEFINITION. Family 0xE: skip on key state (45_keypad_family_E.md), and the keys FX0A samples (46 R171). -/

namespace Sys2Proof.Machine

/-- `env.key(k)`: the oracle's answer for a code at this step, codes 16..255 included (R160, R212; log 1). -/
def Env.key (e : Env) (k : Byte) : Bool := e.keys.getLsbD k.toNat

/-- The codes 0..15 that are down, ascending (R171). -/
def Env.pressed (e : Env) : List Nibble :=
  ((List.range 16).map (BitVec.ofNat 4)).filter fun k => e.key (k.setWidth 8)

/-- Which pressed key is reported: the draw `pick`, reduced to the number of pressed keys, chooses, so that any of
them may be (R171, 93 U6; log 3). `none` when no key is down. -/
def Env.chosenKey (e : Env) : Option Nibble := e.pressed[e.pick % e.pressed.length]?

/-- `SKP Vx` (R160). -/
def execSkp (x : Nibble) (s : State) : Host.Outcome State Fault Refusal :=
  .next (s.skipIf (s.env.key (s.getV x)))

/-- `SKNP Vx` (R161). -/
def execSknp (x : Nibble) (s : State) : Host.Outcome State Fault Refusal :=
  .next (s.skipIf (!s.env.key (s.getV x)))

/-- `UNIMPL.E` (R162): the oracle is not asked. -/
def execUnimplE (x : Nibble) (nn : Byte) (s : State) : Host.Outcome State Fault Refusal :=
  .next (unimplemented (.unimplE x nn) s)

end Sys2Proof.Machine
end

