-- ==== Sys2Proof/Machine/Misc.lean ====
section
/-! DEFINITION. Family 0xF: timers, key wait, index arithmetic, font, decimal digits, register block
(46_misc_family_F.md). -/

namespace Sys2Proof.Machine

/-- `LD Vx, DT` (R170). -/
def execLdFromDt (x : Nibble) (s : State) : Host.Outcome State Fault Refusal :=
  .next (s.setV x s.dt).advance

/-- What `LD Vx, K` does with the key reported: its code to `V[x]`, or the hold when no key is down (R171). -/
def keyWait (x : Nibble) (k : Option Nibble) (s : State) : State :=
  match k with
  | some code => (s.setV x (code.setWidth 8)).advance
  | none => s

/-- `LD Vx, K` (R171): with no key down the step changes nothing, PC included. -/
def execLdKey (x : Nibble) (s : State) : Host.Outcome State Fault Refusal :=
  .next (keyWait x s.env.chosenKey s)

/-- `LD DT, Vx` (R172). -/
def execLdDt (x : Nibble) (s : State) : Host.Outcome State Fault Refusal :=
  .next (s.setDt (s.getV x)).advance

/-- `LD ST, Vx` (R173). -/
def execLdSt (x : Nibble) (s : State) : Host.Outcome State Fault Refusal :=
  .next (s.setSt (s.getV x)).advance

/-- `ADD I, Vx` (R174): the sum modulo 2^16, and VF 1 when it exceeds 0xFFF. -/
def execAddI (x : Nibble) (s : State) : Host.Outcome State Fault Refusal :=
  .next ((s.setI (s.i + zext8 (s.getV x))).setFlag (indexFlag s.i (s.getV x))).advance

/-- The address of the glyph of a digit, the low nibble of the byte (R41, R175; log 17). -/
def glyphAddr (p : Params) (b : Byte) : Word := BitVec.ofNat 16 (p.fontBase + 5 * (b.toNat % 16))

/-- `LD F, Vx` (R175). -/
def execLdFont (x : Nibble) (s : State) : Host.Outcome State Fault Refusal :=
  .next (s.setI (glyphAddr params (s.getV x))).advance

/-- The three decimal digits of a byte: hundreds, tens, ones (R176). -/
def bcdDigits (b : Byte) : List Byte :=
  [BitVec.ofNat 8 (b.toNat / 100), BitVec.ofNat 8 (b.toNat / 10 % 10), BitVec.ofNat 8 (b.toNat % 10)]

/-- `LD B, Vx` (R176). -/
def execLdBcd (x : Nibble) (s : State) : Host.Outcome State Fault Refusal :=
  if inBounds (s.addrI 0) 3 then .next (s.store (s.addrI 0) (bcdDigits (s.getV x))).advance
  else raiseFatal .memOutOfBounds (.ldBcd x) s

/-- I after a register block was moved: unchanged, or past the block, by the parameter (R177; log 11). -/
def State.blockIndex (s : State) (increments : Bool) (x : Nibble) : State :=
  if increments then s.setI (s.i + BitVec.ofNat 16 (x.toNat + 1)) else s

/-- `LD [I], Vx` (R177): V0..Vx stored from I on. -/
def execStoreRegs (x : Nibble) (s : State) : Host.Outcome State Fault Refusal :=
  if inBounds (s.addrI 0) (x.toNat + 1) then
    .next ((s.store (s.addrI 0) (s.block x)).blockIndex params.loadStoreIncrementsI x).advance
  else raiseFatal .memOutOfBounds (.storeRegs x) s

/-- The registers replaced by a loaded block (R178). -/
def State.setBlock (s : State) (x : Nibble) : State :=
  { s with v := loadBlock s.mem (s.addrI 0) (x.toNat + 1) s.v }

/-- `LD Vx, [I]` (R178): V0..Vx loaded from I on. -/
def execLoadRegs (x : Nibble) (s : State) : Host.Outcome State Fault Refusal :=
  if inBounds (s.addrI 0) (x.toNat + 1) then
    .next ((s.setBlock x).blockIndex params.loadStoreIncrementsI x).advance
  else raiseFatal .memOutOfBounds (.loadRegs x) s

/-- `UNIMPL.F` (R179). -/
def execUnimplF (x : Nibble) (nn : Byte) (s : State) : Host.Outcome State Fault Refusal :=
  .next (unimplemented (.unimplF x nn) s)

end Sys2Proof.Machine
end

