-- ==== Sys2Proof/Machine/SkipLoadAdd.lean ====
section
/-! DEFINITION. Families 0x3 to 0x7: skips on a register, load immediate, add immediate
(41_skip_load_add_family_3_to_7.md). None of them writes a flag. -/

namespace Sys2Proof.Machine

/-- `SE Vx, NN` (R110). -/
def execSeImm (x : Nibble) (nn : Byte) (s : State) : Host.Outcome State Fault Refusal :=
  .next (s.skipIf (s.getV x == nn))

/-- `SNE Vx, NN` (R111). -/
def execSneImm (x : Nibble) (nn : Byte) (s : State) : Host.Outcome State Fault Refusal :=
  .next (s.skipIf (s.getV x != nn))

/-- `SE Vx, Vy` (R112); the trailing nibble is not decoded (30_encoding.md R83; log 16). -/
def execSeReg (x y : Nibble) (s : State) : Host.Outcome State Fault Refusal :=
  .next (s.skipIf (s.getV x == s.getV y))

/-- `LD Vx, NN` (R113). -/
def execLdImm (x : Nibble) (nn : Byte) (s : State) : Host.Outcome State Fault Refusal :=
  .next (s.setV x nn).advance

/-- `ADD Vx, NN` (R114): modulo 256, no flag. -/
def execAddImm (x : Nibble) (nn : Byte) (s : State) : Host.Outcome State Fault Refusal :=
  .next (s.setV x (s.getV x + nn)).advance

end Sys2Proof.Machine
end

