-- ==== Sys2Proof/Machine/Step.lean ====
section
/-! DEFINITION. One step (00_scope.md R8; 30_encoding.md R76; 70_reset_and_hazards.md R245, R246), and the state in
which a given word is the next instruction. -/

namespace Sys2Proof.Machine

/-- One step. Not enabled when FATAL is set or PC is outside the loaded program: stuck, by name (R245; log 6).
Otherwise the input of the step is taken (its timer ticks, its oracle answers; log 1, 2), and the word at PC is
fetched, decoded and executed. The input changes neither MEM nor PC, so the fetch does not depend on it. -/
def step (s : State) : Host.Outcome State Fault Refusal :=
  if s.fatal.isNone then
    if s.pcInProgram then exec (decodeWord s.fetchWord) s.takeInput
    else .fault (.halted s)
  else .fault (.stoppedByFatal s)

/-- Where the word is placed: PC where it lies in the program region, else the entry point. -/
def State.fetchPlace (s : State) : Nat :=
  if progBase ≤ s.pc.toNat ∧ s.pc.toNat < stackBase then s.pc.toNat else progBase

/-- `s` with the word stored, high byte first, where the next step fetches, and with all else that this takes: PC
there, the loaded length reaching over it, no fatal condition (log 22). Bits of `w` at `nbits` and above are zero. -/
def State.withFetchWord (s : State) (nbits w : Nat) : State :=
  let word : Word := BitVec.ofNat 16 (w % 2 ^ nbits)
  let place := s.fetchPlace
  { s with
    mem := Memory.writeBytes s.mem place [hiByte word, loByte word]
    pc := BitVec.ofNat 16 place
    plen := Fin.ofNat 3233 (max s.plen.val (min (place + 2 - progBase) progCap))
    fatal := none }

end Sys2Proof.Machine
end

