-- ==== Sys2Proof/Machine/HostOps.lean ====
section
/-! DEFINITION. What the host and the timer agent do to the machine between steps (00_scope.md R5, R6;
60_exceptions.md R209; 70_reset_and_hazards.md R240 to R247). -/

namespace Sys2Proof.Machine

/-- `Reset` (R240): the reset state, whatever the state before. The inputs still to come are the outside's, not the
machine's, and stay (log 20). -/
def State.hostReset (s : State) : State :=
  { State.reset with inputs := s.inputs, draws := s.draws }

/-- The core is in the reset state of R240; the model's own fields do not count. -/
def State.isReset (s : State) : Bool :=
  decide (s = { State.reset with env := s.env, inputs := s.inputs, draws := s.draws })

/-- The effect of a `Load` that fits: byte `i` to `MEM[0x200 + i]`, PLEN, PC (R243). -/
def State.placeProgram (s : State) (bytes : List Byte) : State :=
  { s with
    mem := Memory.writeBytes s.mem progBase bytes
    plen := Fin.ofNat 3233 bytes.length
    pc := BitVec.ofNat 16 progBase }

/-- `Load(bytes)` (R243, R244): refused by name outside the reset state; PROGRAM_TOO_LARGE above the capacity. -/
def State.hostLoad (s : State) (bytes : List Byte) : Host.Outcome State Fault Refusal :=
  if s.isReset then
    if bytes.length ≤ progCap then .next (s.placeProgram bytes)
    else .fault (.fatal .programTooLarge (s.latchFatal .programTooLarge 0x200#16 0x0000#16))
  else .refused .loadOutsideReset

/-- What the outside can do to the machine. -/
inductive HostOp
  /-- R240. -/
  | reset
  /-- R243. -/
  | load (bytes : List Byte)
  /-- The host invokes one step (R6, R245). -/
  | step
  /-- The timer agent's step (R209). -/
  | tick
  /-- A quit is observed: no state of the core changes, the host invokes no further step (R247; log 21). -/
  | quit
deriving DecidableEq, Repr

/-- The effect of each. -/
def hostOp (o : HostOp) (s : State) : Host.Outcome State Fault Refusal :=
  match o with
  | .reset => .next s.hostReset
  | .load bytes => s.hostLoad bytes
  | .step => step s
  | .tick => .next s.timerTick
  | .quit => .next s

end Sys2Proof.Machine
end

