-- ==== Sys2Proof/Safety.lean ====
section
/-! DEFINITION. The terms in which claims are made: what an instruction may write (the access matrix, 10_state.md
R37) and what it leaves alone, when it raises a fatal condition (60_exceptions.md R201), how a run goes and ends
(70_reset_and_hazards.md R246). Written from the spec's tables, not from the meanings. -/

namespace Sys2Proof.Machine

/-! ### Frames -/

/-- The elements an instruction may write, PC apart, which every instruction may (R24, R37). -/
structure Writes where
  /-- The registers. -/
  regs : List Nibble := []
  index : Bool := false
  dt : Bool := false
  st : Bool := false
  sp : Bool := false
  /-- The addresses stored to. -/
  mem : List Nat := []
  fb : Bool := false
  events : Bool := false
deriving DecidableEq, Repr

/-- From `s` to `t` nothing has changed but what `w` lists, and PC. -/
structure Frame (w : Writes) (s t : State) : Prop where
  regs : ∀ r, r ∉ w.regs → t.getV r = s.getV r
  index : w.index = false → t.i = s.i
  dt : w.dt = false → t.dt = s.dt
  st : w.st = false → t.st = s.st
  sp : w.sp = false → t.sp = s.sp
  mem : ∀ a, a ∉ w.mem → Memory.read t.mem a = Memory.read s.mem a
  fb : w.fb = false → ∀ r c, t.pixel r c = s.pixel r c
  events : w.events = false → t.events = s.events
  plen : t.plen = s.plen
  fatal : t.fatal = s.fatal
  env : t.env = s.env
  inputs : t.inputs = s.inputs
  draws : t.draws = s.draws

/-- The `w` and `rw` entries of the access matrix (R37), for the instruction at a state: the slot CALL stores to
(R51, R52), the bytes from I on that LD B and LD [I] store to (R55), and the events of R214. -/
def accessMatrix (i : Instr) (s : State) : Writes :=
  match i with
  | .cls => { fb := true, events := true }
  | .ret => { sp := true }
  | .jp _ => {}
  | .call _ => { sp := true, mem := [slotAddr s.sp.val, slotAddr s.sp.val + 1] }
  | .seImm _ _ => {}
  | .sneImm _ _ => {}
  | .seReg _ _ _ => {}
  | .ldImm x _ => { regs := [x] }
  | .addImm x _ => { regs := [x] }
  | .ldReg x _ => { regs := [x] }
  | .orReg x _ => { regs := [x] }
  | .andReg x _ => { regs := [x] }
  | .xorReg x _ => { regs := [x] }
  | .addReg x _ => { regs := [x, vf] }
  | .subReg x _ => { regs := [x, vf] }
  | .shr x _ => { regs := [x, vf] }
  | .subnReg x _ => { regs := [x, vf] }
  | .shl x _ => { regs := [x, vf] }
  | .sneReg _ _ _ => {}
  | .ldI _ => { index := true }
  | .jpV0 _ => {}
  | .rnd x _ => { regs := [x] }
  | .drw _ _ _ => { regs := [vf], fb := true, events := true }
  | .skp _ => {}
  | .sknp _ => {}
  | .ldFromDt x => { regs := [x] }
  | .ldKey x => { regs := [x] }
  | .ldDt _ => { dt := true }
  | .ldSt _ => { st := true }
  | .addI _ => { regs := [vf], index := true }
  | .ldFont _ => { index := true }
  | .ldBcd _ => { mem := [s.addrI 0, s.addrI 1, s.addrI 2] }
  | .storeRegs x => { mem := (List.range (x.toNat + 1)).map s.addrI }
  | .loadRegs x => { regs := (List.range (x.toNat + 1)).map (BitVec.ofNat 4) }
  | .unimpl0 _ => { events := true }
  | .unimpl8 _ _ _ => { events := true }
  | .unimplE _ _ => { events := true }
  | .unimplF _ _ => { events := true }

/-! ### Fatal conditions -/

/-- The fatal condition an instruction raises at a state, `none` where it raises none: R201, with the ranges of
R49. -/
def raises (i : Instr) (s : State) : Option FatalCause :=
  match i with
  | .cls => none
  | .ret => if s.sp = 0 then some .stackUnderflow else none
  | .jp _ => none
  | .call _ => if s.sp = 24 then some .stackOverflow else none
  | .seImm _ _ => none
  | .sneImm _ _ => none
  | .seReg _ _ _ => none
  | .ldImm _ _ => none
  | .addImm _ _ => none
  | .ldReg _ _ => none
  | .orReg _ _ => none
  | .andReg _ _ => none
  | .xorReg _ _ => none
  | .addReg _ _ => none
  | .subReg _ _ => none
  | .shr _ _ => none
  | .subnReg _ _ => none
  | .shl _ _ => none
  | .sneReg _ _ _ => none
  | .ldI _ => none
  | .jpV0 _ => none
  | .rnd _ _ => none
  | .drw _ y n =>
    if 1 ≤ min n.toNat (32 - (s.getV y).toNat % 32) ∧
        4096 ≤ s.i.toNat + min n.toNat (32 - (s.getV y).toNat % 32) - 1 then some .memOutOfBounds
    else none
  | .skp _ => none
  | .sknp _ => none
  | .ldFromDt _ => none
  | .ldKey _ => none
  | .ldDt _ => none
  | .ldSt _ => none
  | .addI _ => none
  | .ldFont _ => none
  | .ldBcd _ => if 4096 ≤ s.i.toNat + 2 then some .memOutOfBounds else none
  | .storeRegs x => if 4096 ≤ s.i.toNat + x.toNat then some .memOutOfBounds else none
  | .loadRegs x => if 4096 ≤ s.i.toNat + x.toNat then some .memOutOfBounds else none
  | .unimpl0 _ => none
  | .unimpl8 _ _ _ => none
  | .unimplE _ _ => none
  | .unimplF _ _ => none

/-! ### The ways PC ends (R24) -/

/-- PC after an instruction that completes (R24): the auto-advance, a skip by its condition, the target of a
redirect, or the hold of LD Vx, K while no key of 0..15 is down. -/
def pcAfter (i : Instr) (s : State) : Word :=
  match i with
  | .cls => s.pc + 2
  | .ret => joinBytes (Memory.read s.mem (0xEA0 + 2 * (s.sp.val - 1))) (Memory.read s.mem (0xEA0 + 2 * (s.sp.val - 1) + 1))
  | .jp nnn => nnn.setWidth 16
  | .call nnn => nnn.setWidth 16
  | .seImm x nn => if s.getV x = nn then s.pc + 4 else s.pc + 2
  | .sneImm x nn => if s.getV x = nn then s.pc + 2 else s.pc + 4
  | .seReg x y _ => if s.getV x = s.getV y then s.pc + 4 else s.pc + 2
  | .ldImm _ _ => s.pc + 2
  | .addImm _ _ => s.pc + 2
  | .ldReg _ _ => s.pc + 2
  | .orReg _ _ => s.pc + 2
  | .andReg _ _ => s.pc + 2
  | .xorReg _ _ => s.pc + 2
  | .addReg _ _ => s.pc + 2
  | .subReg _ _ => s.pc + 2
  | .shr _ _ => s.pc + 2
  | .subnReg _ _ => s.pc + 2
  | .shl _ _ => s.pc + 2
  | .sneReg x y _ => if s.getV x = s.getV y then s.pc + 2 else s.pc + 4
  | .ldI _ => s.pc + 2
  | .jpV0 nnn => nnn.setWidth 16 + (s.getV 0).setWidth 16
  | .rnd _ _ => s.pc + 2
  | .drw _ _ _ => s.pc + 2
  | .skp x => if s.env.keys.getLsbD (s.getV x).toNat then s.pc + 4 else s.pc + 2
  | .sknp x => if s.env.keys.getLsbD (s.getV x).toNat then s.pc + 2 else s.pc + 4
  | .ldFromDt _ => s.pc + 2
  | .ldKey _ => if s.env.keys.setWidth 16 = 0#16 then s.pc else s.pc + 2
  | .ldDt _ => s.pc + 2
  | .ldSt _ => s.pc + 2
  | .addI _ => s.pc + 2
  | .ldFont _ => s.pc + 2
  | .ldBcd _ => s.pc + 2
  | .storeRegs _ => s.pc + 2
  | .loadRegs _ => s.pc + 2
  | .unimpl0 _ => s.pc + 2
  | .unimpl8 _ _ _ => s.pc + 2
  | .unimplE _ _ => s.pc + 2
  | .unimplF _ _ => s.pc + 2

/-! ### Which instructions touch what -/

/-- The instructions that write VF as a side effect (R22, R251). -/
def writesFlag (i : Instr) : Bool :=
  match i with
  | .addReg _ _ | .subReg _ _ | .shr _ _ | .subnReg _ _ | .shl _ _ | .drw _ _ _ | .addI _ => true
  | .cls | .ret | .jp _ | .call _ | .seImm _ _ | .sneImm _ _ | .seReg _ _ _ | .ldImm _ _ | .addImm _ _ => false
  | .ldReg _ _ | .orReg _ _ | .andReg _ _ | .xorReg _ _ | .sneReg _ _ _ | .ldI _ | .jpV0 _ | .rnd _ _ => false
  | .skp _ | .sknp _ | .ldFromDt _ | .ldKey _ | .ldDt _ | .ldSt _ | .ldFont _ | .ldBcd _ | .storeRegs _ => false
  | .loadRegs _ | .unimpl0 _ | .unimpl8 _ _ _ | .unimplE _ _ | .unimplF _ _ => false

/-- The instructions that ask an oracle: the column Env of the access matrix (R37). -/
def asksEnv (i : Instr) : Bool :=
  match i with
  | .rnd _ _ | .skp _ | .sknp _ | .ldKey _ => true
  | .cls | .ret | .jp _ | .call _ | .seImm _ _ | .sneImm _ _ | .seReg _ _ _ | .ldImm _ _ | .addImm _ _ => false
  | .ldReg _ _ | .orReg _ _ | .andReg _ _ | .xorReg _ _ | .addReg _ _ | .subReg _ _ | .shr _ _ => false
  | .subnReg _ _ | .shl _ _ | .sneReg _ _ _ | .ldI _ | .jpV0 _ | .drw _ _ _ | .ldFromDt _ | .ldDt _ => false
  | .ldSt _ | .addI _ | .ldFont _ | .ldBcd _ | .storeRegs _ | .loadRegs _ | .unimpl0 _ | .unimpl8 _ _ _ => false
  | .unimplE _ _ | .unimplF _ _ => false

/-- An outcome with every state in it changed by `f`. -/
def mapStates (f : State → State) (o : Host.Outcome State Fault Refusal) : Host.Outcome State Fault Refusal :=
  match o with
  | .next t => .next (f t)
  | .fault (.fatal c t) => .fault (.fatal c (f t))
  | .fault (.halted t) => .fault (.halted (f t))
  | .fault (.stoppedByFatal t) => .fault (.stoppedByFatal (f t))
  | .refused r => .refused r

/-! ### The stack as a sequence (R32, R53) -/

/-- The addresses pushed one after another. -/
def pushAll : List Word → State → Option State
  | [], s => some s
  | a :: as, s =>
    match s.push a with
    | some t => pushAll as t
    | none => none

/-- `n` pops one after another: the addresses in the order popped, and the state after. -/
def popAll : Nat → State → Option (List Word × State)
  | 0, s => some ([], s)
  | n + 1, s =>
    match s.pop with
    | some (a, t) =>
      match popAll n t with
      | some (as, u) => some (a :: as, u)
      | none => none
    | none => none

/-! ### Sprites -/

/-- The drawing toggles the pixel at row `r`, column `c`: the pixel lies in a sprite row that is not clipped and in
the eight columns from the start column on, and the sprite bit there is 1, bit 7 of the byte at `I + row` being the
leftmost (R150 to R152, R154). -/
def toggles (s : State) (x y n : Nibble) (r : Fin 32) (c : Fin 64) : Bool :=
  let x0 := (s.getV x).toNat % 64
  let y0 := (s.getV y).toNat % 32
  decide (y0 ≤ r.val ∧ r.val < y0 + n.toNat ∧ x0 ≤ c.val ∧ c.val < x0 + 8) &&
    (Memory.read s.mem (s.i.toNat + (r.val - y0))).getLsbD (7 - (c.val - x0))

/-! ### Reset (R36) -/

/-- Every element of the spec's state has the value R36's table gives it. -/
structure HasResetValues (s : State) : Prop where
  regs : ∀ r, s.getV r = 0x00#8
  index : s.i = 0x0000#16
  timers : s.dt = 0x00#8 ∧ s.st = 0x00#8
  pc : s.pc = 0x0200#16
  sp : s.sp.val = 0
  font : ∀ k < 80, Memory.read s.mem (params.fontBase + k) = params.font.getD k 0x00#8
  zeroed : ∀ a < 4096, ¬(params.fontBase ≤ a ∧ a < params.fontBase + 80) → Memory.read s.mem a = 0x00#8
  pixels : ∀ r c, s.pixel r c = false
  plen : s.plen.val = 0
  fatal : s.fatal = none

/-! ### Runs -/

/-- A run: Reset, Load, then core steps and timer ticks interleaved (R246). Every state of it is one at which a quit
may be observed (R247; log 21). -/
inductive Reachable : State → Prop
  | loaded (s t : State) (bytes : List Byte) : s.hostReset.hostLoad bytes = .next t → Reachable t
  | stepped (s t : State) : Reachable s → step s = .next t → Reachable t
  | ticked (s : State) : Reachable s → Reachable s.timerTick

/-- No fatal condition arises in the next `k` steps: each of them completes, or the run has halted before. -/
def SafeFor : Nat → State → Prop
  | 0, _ => True
  | k + 1, s =>
    match step s with
    | .next t => SafeFor k t
    | .fault (.halted _) => True
    | .fault (.fatal _ _) => False
    | .fault (.stoppedByFatal _) => False
    | .refused _ => False

/-- What holds of the state between two steps: MEM in its canonical form, no fatal condition latched (R34), none
reported (R203). -/
structure Inv (s : State) : Prop where
  mem : Memory.wf s.mem
  fatal : s.fatal = none
  events : ∀ cause pc instr, Event.fatal cause pc instr ∉ s.events

end Sys2Proof.Machine
end

