-- ==== Sys2Proof/Certificates/Slice0/Obligations.lean ====
section
/-! DEFINITION. The statements for the provers, from the spec's numbered rules. -/

open Sys2Proof Sys2Proof.Machine

/-! ### Encoding -/

/-- Words written out from 30_encoding.md R80 decode to the instructions they stand for, one or more of each family. -/
def Obligations.WrittenWordsDecode : Prop :=
  decode [0x00#8, 0xE0#8] = .ok (.cls, []) ∧ decode [0x00#8, 0xEE#8] = .ok (.ret, []) ∧
  decode [0x12#8, 0x00#8] = .ok (.jp 0x200#12, []) ∧ decode [0x22#8, 0x04#8] = .ok (.call 0x204#12, []) ∧
  decode [0x60#8, 0x05#8] = .ok (.ldImm 0#4 5#8, []) ∧ decode [0x82#8, 0x76#8] = .ok (.shr 2#4 7#4, []) ∧
  decode [0x92#8, 0x30#8] = .ok (.sneReg 2#4 3#4 0#4, []) ∧ decode [0xD1#8, 0x25#8] = .ok (.drw 1#4 2#4 5#4, []) ∧
  decode [0xE3#8, 0xA1#8] = .ok (.sknp 3#4, []) ∧ decode [0xF2#8, 0x33#8] = .ok (.ldBcd 2#4, []) ∧
  decode [0x00#8, 0x00#8] = .ok (.unimpl0 0x000#12, []) ∧ decode [0xF1#8, 0xFF#8] = .ok (.unimplF 1#4 0xFF#8, [])

/-- R72: for every word, each field the decoder extracts is the manual bit mask. -/
def Obligations.FieldsAreBitMasks : Prop :=
  ∀ w : Word,
    (opOf w).toNat = (w.toNat >>> 12) &&& 0xF ∧ (xOf w).toNat = (w.toNat >>> 8) &&& 0xF ∧
    (yOf w).toNat = (w.toNat >>> 4) &&& 0xF ∧ (nOf w).toNat = w.toNat &&& 0xF ∧
    (nnOf w).toNat = w.toNat &&& 0xFF ∧ (nnnOf w).toNat = w.toNat &&& 0xFFF

/-- Decoding the two bytes of a well-formed instruction gives it back, with every operand, and leaves the bytes
after them. -/
def Obligations.DecodeOfEncodeIsTheInstruction : Prop :=
  ∀ (i : Instr) (rest : List Byte), i.wf = true → decode (encodeBytes i ++ rest) = .ok (i, rest)

/-- Every one of the 65536 words decodes to a well-formed instruction whose encoding is that word. -/
def Obligations.EncodeOfDecodeIsTheWord : Prop :=
  ∀ w : Word, (decodeWord w).wf = true ∧ encode (decodeWord w) = w

/-- R80, R81: there are 34 instruction rows; every word is taken by exactly one of them, and decodes to that row's
instruction, or by none of them and by exactly one fallback row, and decodes to that row's unimplemented encoding. -/
def Obligations.DecoderSelectsTheRowOfTheOpcodeMap : Prop :=
  instructionRows.length = 34 ∧ fallbackRows.length = 4 ∧
  ∀ w : Word,
    (∃ r, instructionRows.filter (fun r => r.takes w) = [r] ∧ (decodeWord w).mnemonic = r.mnemonic) ∨
    (instructionRows.filter (fun r => r.takes w) = [] ∧
      ∃ r, fallbackRows.filter (fun r => r.takes w) = [r] ∧ (decodeWord w).mnemonic = r.mnemonic)

/-! ### The step -/

/-- A step runs the decoded instruction: where it is enabled and the two bytes at PC decode to `i`, it is `exec i`
at the state with the step's input taken. That input (the model's rendering of R5, R7, R8: log 1, 2) is the first
one written down, or the free values; it moves the timers down by its ticks and nothing else of the core. -/
def Obligations.StepRunsTheDecodedInstruction : Prop :=
  ∀ (s : State) (i : Instr),
    s.fatal = none → 0x200 ≤ s.pc.toNat → s.pc.toNat < 0x200 + s.plen.val →
    decode [Memory.read s.mem s.pc.toNat, Memory.read s.mem (s.pc.toNat + 1)] = .ok (i, []) →
    ∃ (s' : State) (inp : Input), step s = exec i s' ∧
      (∀ a rest, s.inputs = a :: rest → inp = a) ∧
      (s.inputs = [] → inp = ⟨Config.freeTicks s.draws,
        ⟨Config.freeKeys s.draws, Config.freeRnd s.draws, Config.freePick s.draws⟩⟩) ∧
      s'.env = inp.env ∧ s'.inputs = s.inputs.tail ∧ s'.draws = s.draws + 1 ∧
      s'.dt.toNat = s.dt.toNat - inp.ticks ∧ s'.st.toNat = s.st.toNat - inp.ticks ∧
      s'.v = s.v ∧ s'.i = s.i ∧ s'.pc = s.pc ∧ s'.sp = s.sp ∧ s'.mem = s.mem ∧ s'.fb = s.fb ∧
      s'.plen = s.plen ∧ s'.fatal = s.fatal ∧ s'.events = s.events

/-- Where R245's condition fails no step is taken: stuck, by name (the model's rendering, log 6). -/
def Obligations.StepIsStuckWhereNotEnabled : Prop :=
  ∀ s : State,
    (s.fatal ≠ none → step s = .fault (.stoppedByFatal s)) ∧
    (s.fatal = none → (s.pc.toNat < 0x200 ∨ 0x200 + s.plen.val ≤ s.pc.toNat) → step s = .fault (.halted s))

/-- R25: where a step is enabled PC is at most 0xE9F, so neither the fetch nor the sums `pc + 2`, `pc + 4` leave
their range. -/
def Obligations.EnabledPcNeverWraps : Prop :=
  ∀ s : State, s.stepEnabled = true →
    0x200 ≤ s.pc.toNat ∧ s.pc.toNat ≤ 0xE9F ∧ s.pc.toNat + 1 < 4096 ∧
    s.advance.pc.toNat = s.pc.toNat + 2 ∧ s.skip.pc.toNat = s.pc.toNat + 4

/-- With a word placed by `withFetchWord` the very next step runs exactly it, from every state (log 22). -/
def Obligations.PlacedWordIsTheNextInstruction : Prop :=
  ∀ (s : State) (w : Word),
    step (s.withFetchWord 16 w.toNat) = exec (decodeWord w) (s.withFetchWord 16 w.toNat).takeInput

/-! ### Whole-machine rules -/

/-- Every instruction completes wherever it raises no fatal condition of R201's table: never a refusal, never
another stop. -/
def Obligations.EveryInstructionCompletesUnlessItRaises : Prop :=
  ∀ (i : Instr) (s : State), raises i s = none → ∃ t, exec i s = .next t

/-- R204: where an instruction raises a fatal condition, every element keeps its value, PC included, but FATAL; and
R203's event is emitted. -/
def Obligations.FatalConditionsArePrecise : Prop :=
  ∀ (i : Instr) (s : State) (c : FatalCause), raises i s = some c →
    exec i s = .fault (.fatal c
      { s with fatal := some c, events := s.events ++ [.fatal c s.pc (encode i)] })

/-- The write entries of the access matrix (R37): an instruction changes nothing but what its row lists, and PC. That
FX55 and FX65 leave I unchanged is the model's choice: the parameter `LOADSTORE_INCREMENTS_I` at the spec's default,
false (decision D19: log 11). -/
def Obligations.InstructionsWriteOnlyTheirRow : Prop :=
  ∀ (i : Instr) (s t : State), exec i s = .next t → Frame (accessMatrix i s) s t

/-- R24: how every instruction leaves PC, and that a fatal condition leaves it at the instruction. -/
def Obligations.EveryInstructionLeavesPcAsItsClassSays : Prop :=
  ∀ (i : Instr) (s : State),
    (∀ t, exec i s = .next t → t.pc = pcAfter i s) ∧
    (∀ c t, exec i s = .fault (.fatal c t) → t.pc = s.pc)

/-- The side effects on VF (R22, R251): the seven flag-writing instructions leave 0 or 1 there whatever it held; any
other instruction changes VF only as a destination register. That VF is 0 or 1 after the five ALU forms with X = 15 is
the model's choice: the parameter `VF_WRITE_ORDER` at the spec's default, flag_last (decision D7: log 9). -/
def Obligations.FlagIsZeroOrOneAndOtherwiseUntouched : Prop :=
  ∀ (i : Instr) (s t : State), exec i s = .next t →
    (writesFlag i = true → t.getV 15#4 = 0x00#8 ∨ t.getV 15#4 = 0x01#8) ∧
    (writesFlag i = false → 15#4 ∉ (accessMatrix i s).regs → t.getV 15#4 = s.getV 15#4)

/-- The oracles are asked by CXNN, EX9E, EXA1 and FX0A only (R37, column Env): to every other instruction their
answers make no difference. -/
def Obligations.OnlyFourInstructionsAskTheOracles : Prop :=
  ∀ (i : Instr) (s : State) (e : Env), asksEnv i = false →
    exec i { s with env := e } = mapStates (fun t => { t with env := e }) (exec i s)

/-- R28: no instruction reads ST. FX18 overwrites it; to every other instruction its value makes no difference. -/
def Obligations.NoInstructionReadsTheSoundTimer : Prop :=
  ∀ (i : Instr) (s : State) (b : Byte),
    (∀ x, i = .ldSt x → exec i { s with st := b } = exec i s) ∧
    ((∀ x, i ≠ .ldSt x) → exec i { s with st := b } = mapStates (fun t => { t with st := b }) (exec i s))

/-- R33: the loaded length is constant during a run, whether a step completes or ends it. -/
def Obligations.NoStepChangesTheLoadedLength : Prop :=
  ∀ s : State,
    (∀ t, step s = .next t → t.plen = s.plen) ∧
    (∀ c t, step s = .fault (.fatal c t) → t.plen = s.plen)

/-- Every step keeps the invariant: memory in canonical form inside [0, 4096), no fatal condition latched, none
reported. -/
def Obligations.StepKeepsTheInvariant : Prop :=
  ∀ s t : State, Inv s → step s = .next t → Inv t

/-- The reset state meets the invariant. -/
def Obligations.ResetMeetsTheInvariant : Prop :=
  Inv State.reset ∧ ∀ s : State, Inv s.hostReset

/-- Every state of every run meets the invariant: after Reset and any Load, through any steps and ticks. -/
def Obligations.EveryReachableStateMeetsTheInvariant : Prop :=
  ∀ s : State, Reachable s → Inv s

/-- How a run goes on or ends (R246): in a reachable state a step completes, or the run has halted with PC outside
the loaded program, or one of the three fatal conditions an instruction can raise ends it. That
the halted state, in which the spec gives no transition and which is the normal end of a run, answers a fault named
`halted` is the model's rendering (log 6). -/
def Obligations.EveryRunGoesOnHaltsOrIsFatal : Prop :=
  ∀ s : State, Reachable s →
    (∃ t, step s = .next t) ∨
    (step s = .fault (.halted s) ∧ (s.pc.toNat < 0x200 ∨ 0x200 + s.plen.val ≤ s.pc.toNat)) ∨
    (∃ c t, step s = .fault (.fatal c t) ∧ t.fatal = some c ∧
      (c = .stackOverflow ∨ c = .stackUnderflow ∨ c = .memOutOfBounds))

/-- Two memories in canonical form that read alike are the same list. -/
def Obligations.CanonicalMemoriesThatReadAlikeAreEqual : Prop :=
  ∀ m m' : Memory, Memory.wf m → Memory.wf m' →
    (∀ a < 4096, Memory.read m a = Memory.read m' a) → m = m'

/-! ### Families 0x0, 0x1, 0x2 -/

/-- R100. -/
def Obligations.ClsClearsTheFrameBuffer : Prop :=
  ∀ s : State, ∃ t, exec .cls s = .next t ∧
    (∀ r c, t.pixel r c = false) ∧ t.events = s.events ++ [.displayClear] ∧ t.pc = s.pc + 2 ∧
    Frame { fb := true, events := true } s t

/-- R101, R53: RET takes the top slot's two bytes to PC, high byte first, and leaves them in memory; with an empty
stack it is STACK_UNDERFLOW. -/
def Obligations.RetPopsTheReturnAddress : Prop :=
  ∀ s : State,
    (∀ k : Nat, s.sp.val = k + 1 → ∃ t, exec .ret s = .next t ∧
      t.pc = Memory.read s.mem (0xEA0 + 2 * k) ++ Memory.read s.mem (0xEA0 + 2 * k + 1) ∧ t.sp.val = k ∧
      Frame { sp := true } s t) ∧
    (s.sp.val = 0 → exec .ret s = .fault (.fatal .stackUnderflow
      { s with fatal := some .stackUnderflow, events := s.events ++ [.fatal .stackUnderflow s.pc 0x00EE#16] }))

/-- R104, R52: CALL stores `pc + 2` in slot SP, high byte first, raises SP, and goes to NNN; with a full stack it is
STACK_OVERFLOW and nothing is stored. -/
def Obligations.CallPushesTheReturnAddress : Prop :=
  ∀ (s : State) (nnn : Addr12),
    (s.sp.val < 24 → ∃ t, exec (.call nnn) s = .next t ∧
      Memory.read t.mem (0xEA0 + 2 * s.sp.val) ++ Memory.read t.mem (0xEA0 + 2 * s.sp.val + 1) = s.pc + 2 ∧
      t.sp.val = s.sp.val + 1 ∧ t.pc.toNat = nnn.toNat ∧
      Frame { sp := true, mem := [0xEA0 + 2 * s.sp.val, 0xEA0 + 2 * s.sp.val + 1] } s t) ∧
    (s.sp.val = 24 → exec (.call nnn) s = .fault (.fatal .stackOverflow
      { s with fatal := some .stackOverflow
               events := s.events ++ [.fatal .stackOverflow s.pc (0x2#4 ++ nnn)] }))

/-- R53: pushing N addresses that fit and popping N times gives them in reverse order and the same depth; one push
more than fits, and a pop of the empty stack, give nothing. -/
def Obligations.PushedAddressesPopInReverse : Prop :=
  ∀ (s : State) (as : List Word),
    (s.sp.val + as.length ≤ 24 → ∃ t u, pushAll as s = some t ∧ t.sp.val = s.sp.val + as.length ∧
      popAll as.length t = some (as.reverse, u) ∧ u.sp = s.sp ∧ u.mem = t.mem) ∧
    (24 < s.sp.val + as.length → pushAll as s = none) ∧
    (s.sp.val = 0 → s.pop = none)

/-- R103, R142: the jump targets; BNNN's sum is not reduced. -/
def Obligations.JumpsGoToTheirTargets : Prop :=
  ∀ (s : State) (nnn : Addr12),
    (∃ t, exec (.jp nnn) s = .next t ∧ t.pc.toNat = nnn.toNat ∧ Frame {} s t) ∧
    (∃ t, exec (.jpV0 nnn) s = .next t ∧ t.pc.toNat = nnn.toNat + (s.getV 0#4).toNat ∧ Frame {} s t)

/-! ### Families 0x3 to 0x7 and 0x9 -/

/-- R110, R111: the skips against an immediate; exactly one of the two skips. -/
def Obligations.ImmediateSkips : Prop :=
  ∀ (s : State) (x : Nibble) (nn : Byte),
    (∃ t, exec (.seImm x nn) s = .next t ∧
      t.pc = (if s.getV x = nn then s.pc + 4 else s.pc + 2) ∧ Frame {} s t) ∧
    (∃ t, exec (.sneImm x nn) s = .next t ∧
      t.pc = (if s.getV x ≠ nn then s.pc + 4 else s.pc + 2) ∧ Frame {} s t)

/-- R112, R140: the skips on two registers, whatever the trailing nibble. -/
def Obligations.RegisterSkips : Prop :=
  ∀ (s : State) (x y n : Nibble),
    (∃ t, exec (.seReg x y n) s = .next t ∧
      t.pc = (if s.getV x = s.getV y then s.pc + 4 else s.pc + 2) ∧ Frame {} s t) ∧
    (∃ t, exec (.sneReg x y n) s = .next t ∧
      t.pc = (if s.getV x ≠ s.getV y then s.pc + 4 else s.pc + 2) ∧ Frame {} s t)

/-- R113, R114: load and add immediate; the sum is modulo 256, and VF is not written but as the destination. -/
def Obligations.ImmediateLoadAndAdd : Prop :=
  ∀ (s : State) (x : Nibble) (nn : Byte),
    (∃ t, exec (.ldImm x nn) s = .next t ∧ t.getV x = nn ∧ t.pc = s.pc + 2 ∧ Frame { regs := [x] } s t) ∧
    (∃ t, exec (.addImm x nn) s = .next t ∧ (t.getV x).toNat = ((s.getV x).toNat + nn.toNat) % 256 ∧
      t.pc = s.pc + 2 ∧ Frame { regs := [x] } s t)

/-! ### Family 0x8 -/

/-- R120 to R123: copy, OR, AND, XOR, bit by bit; VF is not written but as the destination. -/
def Obligations.CopyAndLogic : Prop :=
  ∀ (s : State) (x y : Nibble),
    (∃ t, exec (.ldReg x y) s = .next t ∧ t.getV x = s.getV y ∧ t.pc = s.pc + 2 ∧ Frame { regs := [x] } s t) ∧
    (∃ t, exec (.orReg x y) s = .next t ∧
      (∀ k, (t.getV x).getLsbD k = ((s.getV x).getLsbD k || (s.getV y).getLsbD k)) ∧
      t.pc = s.pc + 2 ∧ Frame { regs := [x] } s t) ∧
    (∃ t, exec (.andReg x y) s = .next t ∧
      (∀ k, (t.getV x).getLsbD k = ((s.getV x).getLsbD k && (s.getV y).getLsbD k)) ∧
      t.pc = s.pc + 2 ∧ Frame { regs := [x] } s t) ∧
    (∃ t, exec (.xorReg x y) s = .next t ∧
      (∀ k, (t.getV x).getLsbD k = ((s.getV x).getLsbD k ^^ (s.getV y).getLsbD k)) ∧
      t.pc = s.pc + 2 ∧ Frame { regs := [x] } s t)

/-- R124: the low 8 bits of the sum, and the carry in VF, which is what remains when VF is the destination (the
parameter `VF_WRITE_ORDER` at the spec's default, decision D7: log 9). -/
def Obligations.AddWritesSumAndCarry : Prop :=
  ∀ (s : State) (x y : Nibble), ∃ t, exec (.addReg x y) s = .next t ∧
    (x ≠ 15#4 → (t.getV x).toNat = ((s.getV x).toNat + (s.getV y).toNat) % 256) ∧
    (t.getV 15#4).toNat = (if (s.getV x).toNat + (s.getV y).toNat > 255 then 1 else 0) ∧
    t.pc = s.pc + 2 ∧ Frame { regs := [x, 15#4] } s t

/-- R125, R127: the difference modulo 256, and strictly greater in VF, which is what remains when VF is the
destination (the parameter `VF_WRITE_ORDER` at the spec's default, decision D7: log 9). -/
def Obligations.SubtractionsWriteDifferenceAndFlag : Prop :=
  ∀ (s : State) (x y : Nibble),
    (∃ t, exec (.subReg x y) s = .next t ∧
      (x ≠ 15#4 → (t.getV x).toNat = ((s.getV x).toNat + 256 - (s.getV y).toNat) % 256) ∧
      (t.getV 15#4).toNat = (if (s.getV x).toNat > (s.getV y).toNat then 1 else 0) ∧
      t.pc = s.pc + 2 ∧ Frame { regs := [x, 15#4] } s t) ∧
    (∃ t, exec (.subnReg x y) s = .next t ∧
      (x ≠ 15#4 → (t.getV x).toNat = ((s.getV y).toNat + 256 - (s.getV x).toNat) % 256) ∧
      (t.getV 15#4).toNat = (if (s.getV y).toNat > (s.getV x).toNat then 1 else 0) ∧
      t.pc = s.pc + 2 ∧ Frame { regs := [x, 15#4] } s t)

/-- R126, R128: the shifts by one, the bit shifted out in VF, which is what remains when VF is the destination (the
parameter `VF_WRITE_ORDER` at the spec's default, decision D7: log 9); whatever Y is. -/
def Obligations.ShiftsWriteResultAndBitShiftedOut : Prop :=
  ∀ (s : State) (x y : Nibble),
    (∃ t, exec (.shr x y) s = .next t ∧
      (x ≠ 15#4 → (t.getV x).toNat = (s.getV x).toNat / 2) ∧
      (t.getV 15#4).toNat = (s.getV x).toNat % 2 ∧ t.pc = s.pc + 2 ∧ Frame { regs := [x, 15#4] } s t) ∧
    (∃ t, exec (.shl x y) s = .next t ∧
      (x ≠ 15#4 → (t.getV x).toNat = (s.getV x).toNat * 2 % 256) ∧
      (t.getV 15#4).toNat = (s.getV x).toNat / 128 ∧ t.pc = s.pc + 2 ∧ Frame { regs := [x, 15#4] } s t)

/-! ### Families 0xA, 0xC -/

/-- R141: I becomes the 12-bit address, its upper four bits 0. -/
def Obligations.LoadIndex : Prop :=
  ∀ (s : State) (nnn : Addr12), ∃ t, exec (.ldI nnn) s = .next t ∧ t.i.toNat = nnn.toNat ∧ t.pc = s.pc + 2 ∧
    Frame { index := true } s t

/-- R143: the oracle's byte under the mask, for every byte it may answer. -/
def Obligations.RandomByteUnderMask : Prop :=
  ∀ (s : State) (x : Nibble) (nn : Byte), ∃ t, exec (.rnd x nn) s = .next t ∧
    (∀ k, (t.getV x).getLsbD k = (s.env.rnd.getLsbD k && nn.getLsbD k)) ∧ t.pc = s.pc + 2 ∧
    Frame { regs := [x] } s t

/-! ### Family 0xD -/

/-- R150: every pixel after the draw, the collision flag, the event; and MEM_OUT_OF_BOUNDS, with nothing else
changed, exactly where a sprite row that is not clipped lies at 4096 or above. That VF reports a collision, and not 1 always,
is the parameter `DRAW_FLAG_POLICY` at the spec's default (R153, decision D13: log 10). -/
def Obligations.DrawTogglesPixelsAndReportsCollision : Prop :=
  ∀ (s : State) (x y n : Nibble),
    ((min n.toNat (32 - (s.getV y).toNat % 32) = 0 ∨
        s.i.toNat + min n.toNat (32 - (s.getV y).toNat % 32) - 1 < 4096) →
      ∃ t, exec (.drw x y n) s = .next t ∧
        (∀ r c, t.pixel r c = (s.pixel r c ^^ toggles s x y n r c)) ∧
        (((∃ r c, s.pixel r c = true ∧ t.pixel r c = false) ∧ t.getV 15#4 = 0x01#8) ∨
          ((¬∃ r c, s.pixel r c = true ∧ t.pixel r c = false) ∧ t.getV 15#4 = 0x00#8)) ∧
        t.events = s.events ++ [.present t.fb] ∧ t.pc = s.pc + 2 ∧
        Frame { regs := [15#4], fb := true, events := true } s t) ∧
    (1 ≤ min n.toNat (32 - (s.getV y).toNat % 32) ∧
        4096 ≤ s.i.toNat + min n.toNat (32 - (s.getV y).toNat % 32) - 1 →
      exec (.drw x y n) s = .fault (.fatal .memOutOfBounds
        { s with fatal := some .memOutOfBounds
                 events := s.events ++ [.fatal .memOutOfBounds s.pc (0xD#4 ++ x ++ y ++ n)] }))

/-- R156: a second draw of the same sprite at the same place, with no other frame-buffer write between, restores the
frame buffer, presents it whatever has changed, and reports a collision exactly when a sprite bit on the screen landed on a pixel that
the first draw left set (VF by the spec's default policy: log 10). -/
def Obligations.DrawingTwiceRestoresTheFrameBuffer : Prop :=
  ∀ (s t s' : State) (x y x' y' n : Nibble),
    exec (.drw x y n) s = .next t → s'.fb = t.fb → s'.i = s.i →
    (s'.getV x').toNat % 64 = (s.getV x).toNat % 64 → (s'.getV y').toNat % 32 = (s.getV y).toNat % 32 →
    (∀ k < n.toNat, Memory.read s'.mem (s.i.toNat + k) = Memory.read s.mem (s.i.toNat + k)) →
    ∃ u, exec (.drw x' y' n) s' = .next u ∧ u.fb = s.fb ∧ u.events = s'.events ++ [.present u.fb] ∧
      (u.getV 15#4 = 0x01#8 ↔ ∃ r c, toggles s x y n r c = true ∧ t.pixel r c = true)

/-! ### Family 0xE -/

/-- R160, R161: the skips on a key, for every answer and every code of a register, 16..255 included. -/
def Obligations.KeySkips : Prop :=
  ∀ (s : State) (x : Nibble),
    (∃ t, exec (.skp x) s = .next t ∧
      t.pc = (if s.env.keys.getLsbD (s.getV x).toNat then s.pc + 4 else s.pc + 2) ∧ Frame {} s t) ∧
    (∃ t, exec (.sknp x) s = .next t ∧
      t.pc = (if s.env.keys.getLsbD (s.getV x).toNat then s.pc + 2 else s.pc + 4) ∧ Frame {} s t)

/-! ### Family 0xF -/

/-- R170, R172, R173: the timer registers read and written. -/
def Obligations.TimerLoadsAndStores : Prop :=
  ∀ (s : State) (x : Nibble),
    (∃ t, exec (.ldFromDt x) s = .next t ∧ t.getV x = s.dt ∧ t.pc = s.pc + 2 ∧ Frame { regs := [x] } s t) ∧
    (∃ t, exec (.ldDt x) s = .next t ∧ t.dt = s.getV x ∧ t.pc = s.pc + 2 ∧ Frame { dt := true } s t) ∧
    (∃ t, exec (.ldSt x) s = .next t ∧ t.st = s.getV x ∧ t.pc = s.pc + 2 ∧ Frame { st := true } s t)

/-- R171: with no key of 0..15 down the step changes nothing; else the code of a pressed key is stored and the wait
is over; and any pressed key may be the one reported (by the model's own draw `pick`: log 3). -/
def Obligations.KeyWaitHoldsOrReportsAPressedKey : Prop :=
  ∀ (s : State) (x : Nibble),
    ((∀ k < 16, s.env.keys.getLsbD k = false) → exec (.ldKey x) s = .next s) ∧
    ((∃ k < 16, s.env.keys.getLsbD k = true) → ∃ t k, exec (.ldKey x) s = .next t ∧ k < 16 ∧
      s.env.keys.getLsbD k = true ∧ (t.getV x).toNat = k ∧ t.pc = s.pc + 2 ∧ Frame { regs := [x] } s t) ∧
    (∀ k < 16, s.env.keys.getLsbD k = true → ∃ p t,
      exec (.ldKey x) { s with env := { s.env with pick := p } } = .next t ∧ (t.getV x).toNat = k)

/-- R174: the sum modulo 2^16, and VF 1 exactly when the sum exceeds 0xFFF. -/
def Obligations.AddToIndex : Prop :=
  ∀ (s : State) (x : Nibble), ∃ t, exec (.addI x) s = .next t ∧
    t.i.toNat = (s.i.toNat + (s.getV x).toNat) % 65536 ∧
    (t.getV 15#4).toNat = (if s.i.toNat + (s.getV x).toNat > 0x0FFF then 1 else 0) ∧ t.pc = s.pc + 2 ∧
    Frame { regs := [15#4], index := true } s t

/-- R175: I is the address of the glyph of the low nibble's digit. -/
def Obligations.FontAddress : Prop :=
  ∀ (s : State) (x : Nibble), ∃ t, exec (.ldFont x) s = .next t ∧
    t.i.toNat = params.fontBase + 5 * ((s.getV x).toNat % 16) ∧ t.pc = s.pc + 2 ∧ Frame { index := true } s t

/-- R176: hundreds, tens, ones at I, I + 1, I + 2, and no byte elsewhere; MEM_OUT_OF_BOUNDS at the edge. -/
def Obligations.DecimalDigitsStored : Prop :=
  ∀ (s : State) (x : Nibble),
    (s.i.toNat + 2 < 4096 → ∃ t, exec (.ldBcd x) s = .next t ∧
      (Memory.read t.mem s.i.toNat).toNat = (s.getV x).toNat / 100 ∧
      (Memory.read t.mem (s.i.toNat + 1)).toNat = (s.getV x).toNat / 10 % 10 ∧
      (Memory.read t.mem (s.i.toNat + 2)).toNat = (s.getV x).toNat % 10 ∧ t.pc = s.pc + 2 ∧
      Frame { mem := [s.i.toNat, s.i.toNat + 1, s.i.toNat + 2] } s t) ∧
    (4096 ≤ s.i.toNat + 2 → exec (.ldBcd x) s = .fault (.fatal .memOutOfBounds
      { s with fatal := some .memOutOfBounds
               events := s.events ++ [.fatal .memOutOfBounds s.pc (0xF#4 ++ x ++ 0x33#8)] }))

/-- R177: V0..Vx stored from I on, inclusive, no byte elsewhere, I unchanged (the parameter
`LOADSTORE_INCREMENTS_I` at the spec's default, decision D19: log 11); MEM_OUT_OF_BOUNDS at the edge. -/
def Obligations.RegisterBlockStored : Prop :=
  ∀ (s : State) (x : Nibble),
    (s.i.toNat + x.toNat < 4096 → ∃ t, exec (.storeRegs x) s = .next t ∧
      (∀ r : Nibble, r.toNat ≤ x.toNat → Memory.read t.mem (s.i.toNat + r.toNat) = s.getV r) ∧
      t.pc = s.pc + 2 ∧
      Frame { mem := (List.range (x.toNat + 1)).map fun k => s.i.toNat + k } s t) ∧
    (4096 ≤ s.i.toNat + x.toNat → exec (.storeRegs x) s = .fault (.fatal .memOutOfBounds
      { s with fatal := some .memOutOfBounds
               events := s.events ++ [.fatal .memOutOfBounds s.pc (0xF#4 ++ x ++ 0x55#8)] }))

/-- R178: V0..Vx loaded from I on, inclusive, the registers above unchanged, I unchanged (the parameter
`LOADSTORE_INCREMENTS_I` at the spec's default, decision D19: log 11); MEM_OUT_OF_BOUNDS at the edge. -/
def Obligations.RegisterBlockLoaded : Prop :=
  ∀ (s : State) (x : Nibble),
    (s.i.toNat + x.toNat < 4096 → ∃ t, exec (.loadRegs x) s = .next t ∧
      (∀ r : Nibble, r.toNat ≤ x.toNat → t.getV r = Memory.read s.mem (s.i.toNat + r.toNat)) ∧
      (∀ r : Nibble, x.toNat < r.toNat → t.getV r = s.getV r) ∧ t.pc = s.pc + 2 ∧
      Frame { regs := (List.range (x.toNat + 1)).map (BitVec.ofNat 4) } s t) ∧
    (4096 ≤ s.i.toNat + x.toNat → exec (.loadRegs x) s = .fault (.fatal .memOutOfBounds
      { s with fatal := some .memOutOfBounds
               events := s.events ++ [.fatal .memOutOfBounds s.pc (0xF#4 ++ x ++ 0x65#8)] }))

/-- A block stored and loaded again where memory and I are as the store left them gives the registers back (I unchanged: log 11). -/
def Obligations.StoredBlockLoadsBack : Prop :=
  ∀ (s t s' : State) (x : Nibble), exec (.storeRegs x) s = .next t → s'.mem = t.mem → s'.i = t.i →
    ∃ u, exec (.loadRegs x) s' = .next u ∧ ∀ r : Nibble, r.toNat ≤ x.toNat → u.getV r = s.getV r

/-- R60: what LD [I] and LD B store is seen by the very next fetch. -/
def Obligations.StoreIsSeenByTheNextFetch : Prop :=
  ∀ (s t : State) (x : Nibble),
    (exec (.storeRegs x) s = .next t → ∀ r q : Nibble, q.toNat = r.toNat + 1 → q.toNat ≤ x.toNat →
      t.pc.toNat = s.i.toNat + r.toNat → t.fetchWord = s.getV r ++ s.getV q) ∧
    (exec (.ldBcd x) s = .next t → t.pc.toNat = s.i.toNat →
      t.fetchWord.toNat = (s.getV x).toNat / 100 * 256 + (s.getV x).toNat / 10 % 10)

/-! ### Unimplemented encodings -/

/-- R102, R129, R162, R179: a word of one of the four `UNIMPL` rows emits the diagnostic with its address and
itself, advances PC, and changes nothing else. -/
def Obligations.UnimplementedWordsOnlyReport : Prop :=
  ∀ (s : State) (w : Word),
    (w.toNat / 4096 = 0x0 ∧ w.toNat ≠ 0x00E0 ∧ w.toNat ≠ 0x00EE) ∨
    (w.toNat / 4096 = 0x8 ∧ w.toNat % 16 ∈ [0x8, 0x9, 0xA, 0xB, 0xC, 0xD, 0xF]) ∨
    (w.toNat / 4096 = 0xE ∧ w.toNat % 256 ∉ [0x9E, 0xA1]) ∨
    (w.toNat / 4096 = 0xF ∧ w.toNat % 256 ∉ [0x07, 0x0A, 0x15, 0x18, 0x1E, 0x29, 0x33, 0x55, 0x65]) →
    ∃ t, exec (decodeWord w) s = .next t ∧ t.events = s.events ++ [.diagUnimplemented s.pc w] ∧
      t.pc = s.pc + 2 ∧ Frame { events := true } s t

/-! ### The host and the timer agent -/

/-- R36, R240: Reset, in any state, a faulted one included, gives every element its reset value, and no step is
enabled there. -/
def Obligations.ResetGivesTheResetState : Prop :=
  HasResetValues State.reset ∧
  ∀ s : State, ∃ t, hostOp .reset s = .next t ∧ HasResetValues t ∧ t.stepEnabled = false

/-- R243, R244: Load after Reset places the bytes from 0x200 on, sets PLEN and PC and nothing else; above the
capacity it is PROGRAM_TOO_LARGE and places nothing. -/
def Obligations.LoadPlacesTheProgram : Prop :=
  ∀ (s : State) (bytes : List Byte),
    (bytes.length ≤ 3232 → ∃ t, hostOp (.load bytes) s.hostReset = .next t ∧
      (∀ k (h : k < bytes.length), Memory.read t.mem (0x200 + k) = bytes[k]) ∧
      t.plen.val = bytes.length ∧ t.pc = 0x200#16 ∧
      Frame { mem := (List.range bytes.length).map fun k => 0x200 + k } { s.hostReset with plen := t.plen } t) ∧
    (3232 < bytes.length → hostOp (.load bytes) s.hostReset = .fault (.fatal .programTooLarge
      { s.hostReset with fatal := some .programTooLarge
                         events := s.hostReset.events ++ [.fatal .programTooLarge 0x200#16 0x0000#16] }))

/-- R34, R206: a latched cause stays, whatever is done to the machine, until Reset; no step runs and nothing can be
loaded (that these two stop by name is the model's rendering, log 6 and 20). -/
def Obligations.FatalCauseStaysUntilReset : Prop :=
  ∀ (s : State) (c : FatalCause), s.fatal = some c →
    hostOp .step s = .fault (.stoppedByFatal s) ∧
    (∀ bytes, hostOp (.load bytes) s = .refused .loadOutsideReset) ∧
    (∃ t, hostOp .tick s = .next t ∧ t.fatal = some c) ∧
    (∃ t, hostOp .quit s = .next t ∧ t.fatal = some c) ∧
    (∃ t, hostOp .reset s = .next t ∧ t.fatal = none)

/-- R209: a tick moves each timer that is not zero down by one, and nothing else. -/
def Obligations.TicksCountDownAndStopAtZero : Prop :=
  ∀ s : State, ∃ t, hostOp .tick s = .next t ∧
    t.dt.toNat = (if 0 < s.dt.toNat then s.dt.toNat - 1 else 0) ∧
    t.st.toNat = (if 0 < s.st.toNat then s.st.toNat - 1 else 0) ∧ t.pc = s.pc ∧
    Frame { dt := true, st := true } s t
end

