-- ==== Sys2Proof/Laws/Decode.lean ====
section
/-! SUPPORT. The fields of an assembled word: each operand stands where the formats of 30_encoding.md R71 put it. -/

namespace Sys2Proof

section
variable (op x y n : Nibble) (nn : Byte) (nnn : Addr12)

/-! ### The bits of an assembled word -/

theorem getLsbD_nnn (i : Nat) : (op ++ nnn : Word).getLsbD i = if i < 12 then nnn.getLsbD i else op.getLsbD (i - 12) :=
  BitVec.getLsbD_append

theorem getLsbD_xnn (i : Nat) : (op ++ x ++ nn : Word).getLsbD i =
    if i < 8 then nn.getLsbD i else if i - 8 < 4 then x.getLsbD (i - 8) else op.getLsbD (i - 8 - 4) := by
  rw [← BitVec.getLsbD_append]; exact BitVec.getLsbD_append

theorem getLsbD_xyn (i : Nat) : (op ++ x ++ y ++ n : Word).getLsbD i =
    if i < 4 then n.getLsbD i else if i - 4 < 4 then y.getLsbD (i - 4)
    else if i - 4 - 4 < 4 then x.getLsbD (i - 4 - 4) else op.getLsbD (i - 4 - 4 - 4) := by
  rw [← BitVec.getLsbD_append (x := op), ← BitVec.getLsbD_append]; exact BitVec.getLsbD_append

theorem getLsbD_joinBytes (hi lo : Byte) (i : Nat) :
    (joinBytes hi lo).getLsbD i = if i < 8 then lo.getLsbD i else hi.getLsbD (i - 8) :=
  BitVec.getLsbD_append

/-! ### Its fields -/

@[simp] theorem opOf_nnn : opOf (op ++ nnn) = op := by
  apply BitVec.eq_of_getLsbD_eq; intro i hi; rw [opOf, BitVec.getLsbD_extractLsb', getLsbD_nnn]; grind
@[simp] theorem nnnOf_nnn : nnnOf (op ++ nnn) = nnn := by
  apply BitVec.eq_of_getLsbD_eq; intro i hi; rw [nnnOf, BitVec.getLsbD_extractLsb', getLsbD_nnn]; grind
@[simp] theorem opOf_xnn : opOf (op ++ x ++ nn) = op := by
  apply BitVec.eq_of_getLsbD_eq; intro i hi; rw [opOf, BitVec.getLsbD_extractLsb', getLsbD_xnn]; grind
@[simp] theorem xOf_xnn : xOf (op ++ x ++ nn) = x := by
  apply BitVec.eq_of_getLsbD_eq; intro i hi; rw [xOf, BitVec.getLsbD_extractLsb', getLsbD_xnn]; grind
@[simp] theorem nnOf_xnn : nnOf (op ++ x ++ nn) = nn := by
  apply BitVec.eq_of_getLsbD_eq; intro i hi; rw [nnOf, BitVec.getLsbD_extractLsb', getLsbD_xnn]; grind
@[simp] theorem opOf_xyn : opOf (op ++ x ++ y ++ n) = op := by
  apply BitVec.eq_of_getLsbD_eq; intro i hi; rw [opOf, BitVec.getLsbD_extractLsb', getLsbD_xyn]; grind
@[simp] theorem xOf_xyn : xOf (op ++ x ++ y ++ n) = x := by
  apply BitVec.eq_of_getLsbD_eq; intro i hi; rw [xOf, BitVec.getLsbD_extractLsb', getLsbD_xyn]; grind
@[simp] theorem yOf_xyn : yOf (op ++ x ++ y ++ n) = y := by
  apply BitVec.eq_of_getLsbD_eq; intro i hi; rw [yOf, BitVec.getLsbD_extractLsb', getLsbD_xyn]; grind
@[simp] theorem nOf_xyn : nOf (op ++ x ++ y ++ n) = n := by
  apply BitVec.eq_of_getLsbD_eq; intro i hi; rw [nOf, BitVec.getLsbD_extractLsb', getLsbD_xyn]; grind
end

/-! ### A word is its fields -/

theorem op_append_nnn (w : Word) : opOf w ++ nnnOf w = w := by
  apply BitVec.eq_of_getLsbD_eq; intro i hi
  rw [getLsbD_nnn, opOf, nnnOf, BitVec.getLsbD_extractLsb', BitVec.getLsbD_extractLsb']; grind

theorem op_append_xnn (w : Word) : opOf w ++ xOf w ++ nnOf w = w := by
  apply BitVec.eq_of_getLsbD_eq; intro i hi
  rw [getLsbD_xnn, opOf, xOf, nnOf]; simp only [BitVec.getLsbD_extractLsb']; grind

theorem op_append_xyn (w : Word) : opOf w ++ xOf w ++ yOf w ++ nOf w = w := by
  apply BitVec.eq_of_getLsbD_eq; intro i hi
  rw [getLsbD_xyn, opOf, xOf, yOf, nOf]; simp only [BitVec.getLsbD_extractLsb']; grind

/-! ### Rows of the opcode map -/

/-- The trailing byte is the two lower nibbles (R71). -/
theorem nnOf_eq (w : Word) : nnOf w = yOf w ++ nOf w := by
  apply BitVec.eq_of_getLsbD_eq; intro i hi
  have := BitVec.getLsbD_append (x := yOf w) (y := nOf w) (i := i)
  rw [this]; simp only [nnOf, yOf, nOf, BitVec.getLsbD_extractLsb']; grind

/-- Two words are equal when their four nibbles are. -/
theorem word_eq_iff (w c : Word) :
    w = c ↔ opOf w = opOf c ∧ xOf w = xOf c ∧ yOf w = yOf c ∧ nOf w = nOf c := by
  constructor
  · rintro rfl; simp
  · rintro ⟨a, b, d, e⟩; rw [← op_append_xyn w, ← op_append_xyn c, a, b, d, e]

@[simp] theorem opOf_and (w m : Word) : opOf (w &&& m) = opOf w &&& opOf m := by simp [opOf, BitVec.extractLsb'_and]
@[simp] theorem xOf_and (w m : Word) : xOf (w &&& m) = xOf w &&& xOf m := by simp [xOf, BitVec.extractLsb'_and]
@[simp] theorem yOf_and (w m : Word) : yOf (w &&& m) = yOf w &&& yOf m := by simp [yOf, BitVec.extractLsb'_and]
@[simp] theorem nOf_and (w m : Word) : nOf (w &&& m) = nOf w &&& nOf m := by simp [nOf, BitVec.extractLsb'_and]

/-- A row takes a word, nibble by nibble (R80). -/
theorem OpcodeRow.takes_iff (r : OpcodeRow) (w : Word) :
    r.takes w = true ↔ opOf w &&& opOf r.mask = opOf r.bits ∧ xOf w &&& xOf r.mask = xOf r.bits ∧
      yOf w &&& yOf r.mask = yOf r.bits ∧ nOf w &&& nOf r.mask = nOf r.bits := by
  rw [OpcodeRow.takes, beq_iff_eq, word_eq_iff]; simp

/-! ### Bytes -/

/-- The two bytes of a word, joined, are the word (R46). -/
@[simp] theorem joinBytes_hiByte_loByte (w : Word) : joinBytes (hiByte w) (loByte w) = w := by
  apply BitVec.eq_of_getLsbD_eq; intro i hi
  rw [getLsbD_joinBytes, hiByte, loByte]; simp only [BitVec.getLsbD_extractLsb']; grind

@[simp] theorem hiByte_joinBytes (hi lo : Byte) : hiByte (joinBytes hi lo) = hi := by
  apply BitVec.eq_of_getLsbD_eq; intro i h
  rw [hiByte, BitVec.getLsbD_extractLsb', getLsbD_joinBytes]; grind

@[simp] theorem loByte_joinBytes (hi lo : Byte) : loByte (joinBytes hi lo) = lo := by
  apply BitVec.eq_of_getLsbD_eq; intro i h
  rw [loByte, BitVec.getLsbD_extractLsb', getLsbD_joinBytes]; grind

end Sys2Proof
end

