-- ==== Sys2Proof/Laws/Draw.lean ====
section
/-! SUPPORT. The sprite draw: which pixels a sprite byte covers, what each screen row is after the draw, when a
collision is reported. -/

namespace Sys2Proof.Machine

/-- A mask's pixel: a column among the eight from `x0` on whose sprite bit is 1 (R152, R154). -/
theorem getMsbD_rowMask (b : Byte) (x0 c : Nat) (hc : c < 64) :
    (rowMask b x0).getMsbD c = (decide (x0 ≤ c ∧ c < x0 + 8) && b.getLsbD (7 - (c - x0))) := by
  unfold rowMask
  rw [BitVec.getMsbD_ushiftRight]
  by_cases h : x0 ≤ c
  · obtain ⟨j, rfl⟩ : ∃ j, c = x0 + j := ⟨c - x0, by omega⟩
    have e : x0 + j - x0 = j := by omega
    by_cases hj : j < 8
    · have h1 : 63 - j - 56 = 7 - j := by omega
      have h2 : ¬ 63 - j < 56 := by omega
      simp [hc, hj, e, BitVec.getMsbD, BitVec.getLsbD_setWidth]
      grind
    · have h2 : 64 - 1 - (j + 56) = 0 := by omega
      simp [hj, e]
      intro _
      apply BitVec.getMsbD_of_ge
      omega
  · simp [h]

/-- A screen row after `n` sprite rows: XORed with its sprite row's mask, if it has one (R150). -/
theorem getElem_drawRows (m : Memory) (a x0 y0 n : Nat) (fb : FrameBuffer) (r : Nat) (h : r < 32) :
    (drawRows m a x0 y0 n fb).1[r] =
      if y0 ≤ r ∧ r < y0 + n then fb[r] ^^^ rowMask (Memory.read m (a + (r - y0))) x0 else fb[r] := by
  induction n with
  | zero => simp [drawRows]
  | succ n ih =>
    simp only [drawRows, Vector.getElem_setIfInBounds]
    by_cases e : y0 + n = r
    · subst e
      have : (drawRows m a x0 y0 n fb).1[y0 + n]? = some fb[y0 + n] := by
        rw [Vector.getElem?_eq_getElem h, ih]; simp
      simp [this]
    · have : (y0 ≤ r ∧ r < y0 + (n + 1)) ↔ (y0 ≤ r ∧ r < y0 + n) := by omega
      rw [if_neg e, ih]; simp only [this]

/-- A collision is reported when a sprite row's mask meets its screen row (R153). -/
theorem drawRows_collision (m : Memory) (a x0 y0 n : Nat) (fb : FrameBuffer) (hn : y0 + n ≤ 32) :
    (drawRows m a x0 y0 n fb).2 = true ↔
      ∃ k, ∃ h : k < n, fb[y0 + k]'(by omega) &&& rowMask (Memory.read m (a + k)) x0 ≠ 0#64 := by
  induction n with
  | zero => simp [drawRows]
  | succ n ih =>
    have hr : (drawRows m a x0 y0 n fb).1[y0 + n]? = some (fb[y0 + n]'(by omega)) := by
      rw [Vector.getElem?_eq_getElem (by omega), getElem_drawRows]; simp
    simp only [drawRows, Bool.or_eq_true, bne_iff_ne, hr, Option.getD_some, ih (by omega)]
    constructor
    · rintro (⟨k, hk, h⟩ | h)
      · exact ⟨k, by omega, h⟩
      · exact ⟨n, by omega, h⟩
    · rintro ⟨k, hk, h⟩
      by_cases e : k = n
      · subst e; exact .inr h
      · exact .inl ⟨k, by omega, h⟩

end Sys2Proof.Machine
end

