-- ==== Sys2Proof/Laws/Memory.lean ====
section
/-! SUPPORT. Memory: a read after a write, writes of several bytes, and that every operation keeps the canonical
form. -/

namespace Sys2Proof.Machine

/-! ### Reads -/

@[simp] theorem Memory.read_nil (a : Nat) : Memory.read [] a = Memory.unlisted a := rfl

theorem Memory.read_cons (c : Host.Cell) (m : Memory) (a : Nat) :
    Memory.read (c :: m) a = if c.1 = a then c.2 else Memory.read m a := rfl

theorem Memory.read_erase (m : Memory) (a k : Nat) :
    Memory.read (Memory.erase m a) k = if k = a then Memory.unlisted k else Memory.read m k := by
  induction m with
  | nil => simp [Memory.erase]
  | cons c m ih =>
    simp only [Memory.erase]
    by_cases h : c.1 = a
    · rw [if_pos h, ih, Memory.read_cons]
      by_cases hk : k = a
      · simp [hk]
      · simp [hk, h, Ne.symm hk]
    · rw [if_neg h, Memory.read_cons, Memory.read_cons, ih]
      by_cases hk : k = a
      · subst hk; simp [h]
      · simp [hk]

theorem Memory.erase_no_entry (m : Memory) (a : Nat) : ∀ c ∈ Memory.erase m a, c.1 ≠ a := by
  induction m with
  | nil => simp [Memory.erase]
  | cons c m ih =>
    simp only [Memory.erase]
    split
    · exact ih
    · simpa [*] using ih

theorem Memory.read_insert (m : Memory) (c : Host.Cell) (k : Nat) (h : ∀ d ∈ m, d.1 ≠ c.1) :
    Memory.read (Memory.insert m c) k = if c.1 = k then c.2 else Memory.read m k := by
  induction m with
  | nil => simp [Memory.insert, Memory.read_cons]
  | cons d m ih =>
    simp only [List.mem_cons, forall_eq_or_imp] at h
    simp only [Memory.insert]
    split
    · rfl
    · simp only [Memory.read_cons, ih h.2]
      have := h.1
      split <;> split <;> simp_all

/-- The byte at an address after one byte was stored (R56). -/
@[simp] theorem Memory.read_write (m : Memory) (a k : Nat) (b : Byte) :
    Memory.read (Memory.write m a b) k = if k = a then b else Memory.read m k := by
  unfold Memory.write
  split
  · rw [Memory.read_erase]; split <;> simp_all
  · rw [Memory.read_insert _ _ _ (Memory.erase_no_entry m a), Memory.read_erase]
    by_cases h : k = a
    · simp [h]
    · simp [h, Ne.symm h]

/-- The byte at an address after bytes were stored from `a` on (R55, R56). -/
theorem Memory.read_writeBytes (m : Memory) (a k : Nat) (bs : List Byte) :
    Memory.read (Memory.writeBytes m a bs) k =
      if h : a ≤ k ∧ k - a < bs.length then bs[k - a] else Memory.read m k := by
  induction bs generalizing m a with
  | nil => simp [Memory.writeBytes]
  | cons b bs ih =>
    rw [Memory.writeBytes, ih, Memory.read_write]
    by_cases h0 : k = a
    · subst h0; simp
    · by_cases h1 : a ≤ k
      · obtain ⟨j, rfl⟩ : ∃ j, k = a + 1 + j := ⟨k - (a + 1), by omega⟩
        have e1 : a + 1 + j - (a + 1) = j := by omega
        have e2 : a + 1 + j - a = j + 1 := by omega
        have e3 : a ≤ a + 1 + j := by omega
        simp only [e1, e2, e3, h0, List.length_cons, Nat.le_add_right, true_and, Nat.add_lt_add_iff_right,
          List.getElem_cons_succ, if_false]
      · have : ¬ a + 1 ≤ k := by omega
        simp [h0, h1, this]

/-- Outside the stored bytes memory is unchanged. -/
theorem Memory.read_writeBytes_outside (m : Memory) (a k : Nat) (bs : List Byte)
    (h : k < a ∨ a + bs.length ≤ k) : Memory.read (Memory.writeBytes m a bs) k = Memory.read m k := by
  rw [Memory.read_writeBytes, dif_neg]; omega

/-- Inside them it holds them. -/
theorem Memory.read_writeBytes_inside (m : Memory) (a j : Nat) (bs : List Byte) (h : j < bs.length) :
    Memory.read (Memory.writeBytes m a bs) (a + j) = bs[j] := by
  rw [Memory.read_writeBytes, dif_pos ⟨by omega, by omega⟩]; simp

/-! ### The canonical form -/

theorem Memory.mem_erase (m : Memory) (a : Nat) (c : Host.Cell) : c ∈ Memory.erase m a → c ∈ m := by
  induction m with
  | nil => simp [Memory.erase]
  | cons d m ih =>
    simp only [Memory.erase]
    split
    · exact fun h => List.mem_cons_of_mem _ (ih h)
    · simp only [List.mem_cons]
      exact fun h => h.imp id ih

theorem Memory.mem_insert (m : Memory) (c d : Host.Cell) : d ∈ Memory.insert m c → d = c ∨ d ∈ m := by
  induction m with
  | nil => simp [Memory.insert]
  | cons e m ih =>
    simp only [Memory.insert]
    split
    · simp
    · simp only [List.mem_cons]
      rintro (h | h)
      · simp [h]
      · exact (ih h).imp id Or.inr

theorem Memory.pairwise_erase (m : Memory) (a : Nat)
    (h : List.Pairwise (fun c d : Host.Cell => c.1 < d.1) m) :
    List.Pairwise (fun c d : Host.Cell => c.1 < d.1) (Memory.erase m a) := by
  induction h with
  | nil => exact .nil
  | cons hd _ ih =>
    simp only [Memory.erase]
    split
    · exact ih
    · exact .cons (fun e he => hd e (Memory.mem_erase _ _ _ he)) ih

theorem Memory.pairwise_insert (m : Memory) (c : Host.Cell)
    (h : List.Pairwise (fun c d : Host.Cell => c.1 < d.1) m) (hne : ∀ d ∈ m, d.1 ≠ c.1) :
    List.Pairwise (fun c d : Host.Cell => c.1 < d.1) (Memory.insert m c) := by
  induction h with
  | nil => simp [Memory.insert]
  | @cons d m hd hm ih =>
    simp only [List.mem_cons, forall_eq_or_imp] at hne
    simp only [Memory.insert]
    split
    · refine .cons ?_ (.cons hd hm)
      intro e he
      rcases List.mem_cons.1 he with rfl | he
      · assumption
      · have := hd e he; omega
    · refine .cons ?_ (ih hne.2)
      intro e he
      rcases Memory.mem_insert _ _ _ he with rfl | he
      · have := hne.1; omega
      · exact hd e he

theorem Memory.wf_nil : Memory.wf [] := ⟨.nil, by simp⟩

/-- Storing a byte inside [0, 4096) keeps the canonical form. -/
theorem Memory.wf_write (m : Memory) (a : Nat) (b : Byte) (h : Memory.wf m) (ha : a < memSize) :
    Memory.wf (Memory.write m a b) := by
  unfold Memory.write
  split
  · exact ⟨Memory.pairwise_erase _ _ h.1, fun c hc => h.2 c (Memory.mem_erase _ _ _ hc)⟩
  · refine ⟨Memory.pairwise_insert _ _ (Memory.pairwise_erase _ _ h.1) (Memory.erase_no_entry m a), ?_⟩
    intro c hc
    rcases Memory.mem_insert _ _ _ hc with rfl | hc
    · exact ⟨ha, ‹_›⟩
    · exact h.2 c (Memory.mem_erase _ _ _ hc)

/-- Storing bytes inside [0, 4096) keeps the canonical form. -/
theorem Memory.wf_writeBytes (m : Memory) (a : Nat) (bs : List Byte) (h : Memory.wf m)
    (ha : bs = [] ∨ a + bs.length ≤ memSize) : Memory.wf (Memory.writeBytes m a bs) := by
  induction bs generalizing m a with
  | nil => exact h
  | cons b bs ih =>
    simp only [List.length_cons, reduceCtorEq, false_or] at ha
    refine ih _ _ (Memory.wf_write _ _ _ h (by omega)) (.inr (by omega))

/-- An address no cell lists reads as unlisted. -/
theorem Memory.read_of_not_listed (m : Memory) (a : Nat) (h : ∀ c ∈ m, c.1 ≠ a) :
    Memory.read m a = Memory.unlisted a := by
  induction m with
  | nil => rfl
  | cons c m ih =>
    simp only [List.mem_cons, forall_eq_or_imp] at h
    rw [Memory.read_cons, if_neg h.1, ih h.2]

end Sys2Proof.Machine
end

