-- ==== Sys2Proof/Laws/State.lean ====
section
/-! SUPPORT. For each update of the state, what every field is after it, so that no later proof unfolds an update. -/

namespace Sys2Proof.Machine

variable (s : State)

/-! ### setV -/

@[simp] theorem State.setV_i (x : Nibble) (b : Byte) : (s.setV x b).i = s.i := rfl
@[simp] theorem State.setV_pc (x : Nibble) (b : Byte) : (s.setV x b).pc = s.pc := rfl
@[simp] theorem State.setV_dt (x : Nibble) (b : Byte) : (s.setV x b).dt = s.dt := rfl
@[simp] theorem State.setV_st (x : Nibble) (b : Byte) : (s.setV x b).st = s.st := rfl
@[simp] theorem State.setV_sp (x : Nibble) (b : Byte) : (s.setV x b).sp = s.sp := rfl
@[simp] theorem State.setV_mem (x : Nibble) (b : Byte) : (s.setV x b).mem = s.mem := rfl
@[simp] theorem State.setV_fb (x : Nibble) (b : Byte) : (s.setV x b).fb = s.fb := rfl
@[simp] theorem State.setV_plen (x : Nibble) (b : Byte) : (s.setV x b).plen = s.plen := rfl
@[simp] theorem State.setV_fatal (x : Nibble) (b : Byte) : (s.setV x b).fatal = s.fatal := rfl
@[simp] theorem State.setV_events (x : Nibble) (b : Byte) : (s.setV x b).events = s.events := rfl
@[simp] theorem State.setV_env (x : Nibble) (b : Byte) : (s.setV x b).env = s.env := rfl
@[simp] theorem State.setV_inputs (x : Nibble) (b : Byte) : (s.setV x b).inputs = s.inputs := rfl
@[simp] theorem State.setV_draws (x : Nibble) (b : Byte) : (s.setV x b).draws = s.draws := rfl
@[simp] theorem State.setV_pixel (x : Nibble) (b : Byte) (row : Fin 32) (col : Fin 64) : (s.setV x b).pixel row col = s.pixel row col := rfl
@[simp] theorem State.setV_addrI (x : Nibble) (b : Byte) (k : Nat) : (s.setV x b).addrI k = s.addrI k := rfl

/-! ### setFlag -/

@[simp] theorem State.setFlag_i (f : Bool) : (s.setFlag f).i = s.i := rfl
@[simp] theorem State.setFlag_pc (f : Bool) : (s.setFlag f).pc = s.pc := rfl
@[simp] theorem State.setFlag_dt (f : Bool) : (s.setFlag f).dt = s.dt := rfl
@[simp] theorem State.setFlag_st (f : Bool) : (s.setFlag f).st = s.st := rfl
@[simp] theorem State.setFlag_sp (f : Bool) : (s.setFlag f).sp = s.sp := rfl
@[simp] theorem State.setFlag_mem (f : Bool) : (s.setFlag f).mem = s.mem := rfl
@[simp] theorem State.setFlag_fb (f : Bool) : (s.setFlag f).fb = s.fb := rfl
@[simp] theorem State.setFlag_plen (f : Bool) : (s.setFlag f).plen = s.plen := rfl
@[simp] theorem State.setFlag_fatal (f : Bool) : (s.setFlag f).fatal = s.fatal := rfl
@[simp] theorem State.setFlag_events (f : Bool) : (s.setFlag f).events = s.events := rfl
@[simp] theorem State.setFlag_env (f : Bool) : (s.setFlag f).env = s.env := rfl
@[simp] theorem State.setFlag_inputs (f : Bool) : (s.setFlag f).inputs = s.inputs := rfl
@[simp] theorem State.setFlag_draws (f : Bool) : (s.setFlag f).draws = s.draws := rfl
@[simp] theorem State.setFlag_pixel (f : Bool) (row : Fin 32) (col : Fin 64) : (s.setFlag f).pixel row col = s.pixel row col := rfl
@[simp] theorem State.setFlag_addrI (f : Bool) (k : Nat) : (s.setFlag f).addrI k = s.addrI k := rfl

/-! ### setResultFlag -/

@[simp] theorem State.setResultFlag_i (o : VfWriteOrder) (x : Nibble) (b : Byte) (f : Bool) : (s.setResultFlag o x b f).i = s.i := by cases o <;> rfl
@[simp] theorem State.setResultFlag_pc (o : VfWriteOrder) (x : Nibble) (b : Byte) (f : Bool) : (s.setResultFlag o x b f).pc = s.pc := by cases o <;> rfl
@[simp] theorem State.setResultFlag_dt (o : VfWriteOrder) (x : Nibble) (b : Byte) (f : Bool) : (s.setResultFlag o x b f).dt = s.dt := by cases o <;> rfl
@[simp] theorem State.setResultFlag_st (o : VfWriteOrder) (x : Nibble) (b : Byte) (f : Bool) : (s.setResultFlag o x b f).st = s.st := by cases o <;> rfl
@[simp] theorem State.setResultFlag_sp (o : VfWriteOrder) (x : Nibble) (b : Byte) (f : Bool) : (s.setResultFlag o x b f).sp = s.sp := by cases o <;> rfl
@[simp] theorem State.setResultFlag_mem (o : VfWriteOrder) (x : Nibble) (b : Byte) (f : Bool) : (s.setResultFlag o x b f).mem = s.mem := by cases o <;> rfl
@[simp] theorem State.setResultFlag_fb (o : VfWriteOrder) (x : Nibble) (b : Byte) (f : Bool) : (s.setResultFlag o x b f).fb = s.fb := by cases o <;> rfl
@[simp] theorem State.setResultFlag_plen (o : VfWriteOrder) (x : Nibble) (b : Byte) (f : Bool) : (s.setResultFlag o x b f).plen = s.plen := by cases o <;> rfl
@[simp] theorem State.setResultFlag_fatal (o : VfWriteOrder) (x : Nibble) (b : Byte) (f : Bool) : (s.setResultFlag o x b f).fatal = s.fatal := by cases o <;> rfl
@[simp] theorem State.setResultFlag_events (o : VfWriteOrder) (x : Nibble) (b : Byte) (f : Bool) : (s.setResultFlag o x b f).events = s.events := by cases o <;> rfl
@[simp] theorem State.setResultFlag_env (o : VfWriteOrder) (x : Nibble) (b : Byte) (f : Bool) : (s.setResultFlag o x b f).env = s.env := by cases o <;> rfl
@[simp] theorem State.setResultFlag_inputs (o : VfWriteOrder) (x : Nibble) (b : Byte) (f : Bool) : (s.setResultFlag o x b f).inputs = s.inputs := by cases o <;> rfl
@[simp] theorem State.setResultFlag_draws (o : VfWriteOrder) (x : Nibble) (b : Byte) (f : Bool) : (s.setResultFlag o x b f).draws = s.draws := by cases o <;> rfl
@[simp] theorem State.setResultFlag_pixel (o : VfWriteOrder) (x : Nibble) (b : Byte) (f : Bool) (row : Fin 32) (col : Fin 64) : (s.setResultFlag o x b f).pixel row col = s.pixel row col := by cases o <;> rfl
@[simp] theorem State.setResultFlag_addrI (o : VfWriteOrder) (x : Nibble) (b : Byte) (f : Bool) (k : Nat) : (s.setResultFlag o x b f).addrI k = s.addrI k := by cases o <;> rfl

/-! ### setBlock -/

@[simp] theorem State.setBlock_i (x : Nibble) : (s.setBlock x).i = s.i := rfl
@[simp] theorem State.setBlock_pc (x : Nibble) : (s.setBlock x).pc = s.pc := rfl
@[simp] theorem State.setBlock_dt (x : Nibble) : (s.setBlock x).dt = s.dt := rfl
@[simp] theorem State.setBlock_st (x : Nibble) : (s.setBlock x).st = s.st := rfl
@[simp] theorem State.setBlock_sp (x : Nibble) : (s.setBlock x).sp = s.sp := rfl
@[simp] theorem State.setBlock_mem (x : Nibble) : (s.setBlock x).mem = s.mem := rfl
@[simp] theorem State.setBlock_fb (x : Nibble) : (s.setBlock x).fb = s.fb := rfl
@[simp] theorem State.setBlock_plen (x : Nibble) : (s.setBlock x).plen = s.plen := rfl
@[simp] theorem State.setBlock_fatal (x : Nibble) : (s.setBlock x).fatal = s.fatal := rfl
@[simp] theorem State.setBlock_events (x : Nibble) : (s.setBlock x).events = s.events := rfl
@[simp] theorem State.setBlock_env (x : Nibble) : (s.setBlock x).env = s.env := rfl
@[simp] theorem State.setBlock_inputs (x : Nibble) : (s.setBlock x).inputs = s.inputs := rfl
@[simp] theorem State.setBlock_draws (x : Nibble) : (s.setBlock x).draws = s.draws := rfl
@[simp] theorem State.setBlock_pixel (x : Nibble) (row : Fin 32) (col : Fin 64) : (s.setBlock x).pixel row col = s.pixel row col := rfl
@[simp] theorem State.setBlock_addrI (x : Nibble) (k : Nat) : (s.setBlock x).addrI k = s.addrI k := rfl

/-! ### advance -/

@[simp] theorem State.advance_v : (s.advance).v = s.v := rfl
@[simp] theorem State.advance_i : (s.advance).i = s.i := rfl
@[simp] theorem State.advance_pc : (s.advance).pc = s.pc + 2#16 := rfl
@[simp] theorem State.advance_dt : (s.advance).dt = s.dt := rfl
@[simp] theorem State.advance_st : (s.advance).st = s.st := rfl
@[simp] theorem State.advance_sp : (s.advance).sp = s.sp := rfl
@[simp] theorem State.advance_mem : (s.advance).mem = s.mem := rfl
@[simp] theorem State.advance_fb : (s.advance).fb = s.fb := rfl
@[simp] theorem State.advance_plen : (s.advance).plen = s.plen := rfl
@[simp] theorem State.advance_fatal : (s.advance).fatal = s.fatal := rfl
@[simp] theorem State.advance_events : (s.advance).events = s.events := rfl
@[simp] theorem State.advance_env : (s.advance).env = s.env := rfl
@[simp] theorem State.advance_inputs : (s.advance).inputs = s.inputs := rfl
@[simp] theorem State.advance_draws : (s.advance).draws = s.draws := rfl
@[simp] theorem State.advance_getV (r : Nibble) : (s.advance).getV r = s.getV r := rfl
@[simp] theorem State.advance_pixel (row : Fin 32) (col : Fin 64) : (s.advance).pixel row col = s.pixel row col := rfl
@[simp] theorem State.advance_addrI (k : Nat) : (s.advance).addrI k = s.addrI k := rfl

/-! ### skip -/

@[simp] theorem State.skip_v : (s.skip).v = s.v := rfl
@[simp] theorem State.skip_i : (s.skip).i = s.i := rfl
@[simp] theorem State.skip_pc : (s.skip).pc = s.pc + 4#16 := rfl
@[simp] theorem State.skip_dt : (s.skip).dt = s.dt := rfl
@[simp] theorem State.skip_st : (s.skip).st = s.st := rfl
@[simp] theorem State.skip_sp : (s.skip).sp = s.sp := rfl
@[simp] theorem State.skip_mem : (s.skip).mem = s.mem := rfl
@[simp] theorem State.skip_fb : (s.skip).fb = s.fb := rfl
@[simp] theorem State.skip_plen : (s.skip).plen = s.plen := rfl
@[simp] theorem State.skip_fatal : (s.skip).fatal = s.fatal := rfl
@[simp] theorem State.skip_events : (s.skip).events = s.events := rfl
@[simp] theorem State.skip_env : (s.skip).env = s.env := rfl
@[simp] theorem State.skip_inputs : (s.skip).inputs = s.inputs := rfl
@[simp] theorem State.skip_draws : (s.skip).draws = s.draws := rfl
@[simp] theorem State.skip_getV (r : Nibble) : (s.skip).getV r = s.getV r := rfl
@[simp] theorem State.skip_pixel (row : Fin 32) (col : Fin 64) : (s.skip).pixel row col = s.pixel row col := rfl
@[simp] theorem State.skip_addrI (k : Nat) : (s.skip).addrI k = s.addrI k := rfl

/-! ### skipIf -/

@[simp] theorem State.skipIf_v (c : Bool) : (s.skipIf c).v = s.v := by cases c <;> rfl
@[simp] theorem State.skipIf_i (c : Bool) : (s.skipIf c).i = s.i := by cases c <;> rfl
@[simp] theorem State.skipIf_pc (c : Bool) : (s.skipIf c).pc = if c then s.pc + 4#16 else s.pc + 2#16 := by cases c <;> rfl
@[simp] theorem State.skipIf_dt (c : Bool) : (s.skipIf c).dt = s.dt := by cases c <;> rfl
@[simp] theorem State.skipIf_st (c : Bool) : (s.skipIf c).st = s.st := by cases c <;> rfl
@[simp] theorem State.skipIf_sp (c : Bool) : (s.skipIf c).sp = s.sp := by cases c <;> rfl
@[simp] theorem State.skipIf_mem (c : Bool) : (s.skipIf c).mem = s.mem := by cases c <;> rfl
@[simp] theorem State.skipIf_fb (c : Bool) : (s.skipIf c).fb = s.fb := by cases c <;> rfl
@[simp] theorem State.skipIf_plen (c : Bool) : (s.skipIf c).plen = s.plen := by cases c <;> rfl
@[simp] theorem State.skipIf_fatal (c : Bool) : (s.skipIf c).fatal = s.fatal := by cases c <;> rfl
@[simp] theorem State.skipIf_events (c : Bool) : (s.skipIf c).events = s.events := by cases c <;> rfl
@[simp] theorem State.skipIf_env (c : Bool) : (s.skipIf c).env = s.env := by cases c <;> rfl
@[simp] theorem State.skipIf_inputs (c : Bool) : (s.skipIf c).inputs = s.inputs := by cases c <;> rfl
@[simp] theorem State.skipIf_draws (c : Bool) : (s.skipIf c).draws = s.draws := by cases c <;> rfl
@[simp] theorem State.skipIf_getV (c : Bool) (r : Nibble) : (s.skipIf c).getV r = s.getV r := by cases c <;> rfl
@[simp] theorem State.skipIf_pixel (c : Bool) (row : Fin 32) (col : Fin 64) : (s.skipIf c).pixel row col = s.pixel row col := by cases c <;> rfl
@[simp] theorem State.skipIf_addrI (c : Bool) (k : Nat) : (s.skipIf c).addrI k = s.addrI k := by cases c <;> rfl

/-! ### jump -/

@[simp] theorem State.jump_v (a : Word) : (s.jump a).v = s.v := rfl
@[simp] theorem State.jump_i (a : Word) : (s.jump a).i = s.i := rfl
@[simp] theorem State.jump_pc (a : Word) : (s.jump a).pc = a := rfl
@[simp] theorem State.jump_dt (a : Word) : (s.jump a).dt = s.dt := rfl
@[simp] theorem State.jump_st (a : Word) : (s.jump a).st = s.st := rfl
@[simp] theorem State.jump_sp (a : Word) : (s.jump a).sp = s.sp := rfl
@[simp] theorem State.jump_mem (a : Word) : (s.jump a).mem = s.mem := rfl
@[simp] theorem State.jump_fb (a : Word) : (s.jump a).fb = s.fb := rfl
@[simp] theorem State.jump_plen (a : Word) : (s.jump a).plen = s.plen := rfl
@[simp] theorem State.jump_fatal (a : Word) : (s.jump a).fatal = s.fatal := rfl
@[simp] theorem State.jump_events (a : Word) : (s.jump a).events = s.events := rfl
@[simp] theorem State.jump_env (a : Word) : (s.jump a).env = s.env := rfl
@[simp] theorem State.jump_inputs (a : Word) : (s.jump a).inputs = s.inputs := rfl
@[simp] theorem State.jump_draws (a : Word) : (s.jump a).draws = s.draws := rfl
@[simp] theorem State.jump_getV (a : Word) (r : Nibble) : (s.jump a).getV r = s.getV r := rfl
@[simp] theorem State.jump_pixel (a : Word) (row : Fin 32) (col : Fin 64) : (s.jump a).pixel row col = s.pixel row col := rfl
@[simp] theorem State.jump_addrI (a : Word) (k : Nat) : (s.jump a).addrI k = s.addrI k := rfl

/-! ### setI -/

@[simp] theorem State.setI_v (a : Word) : (s.setI a).v = s.v := rfl
@[simp] theorem State.setI_i (a : Word) : (s.setI a).i = a := rfl
@[simp] theorem State.setI_pc (a : Word) : (s.setI a).pc = s.pc := rfl
@[simp] theorem State.setI_dt (a : Word) : (s.setI a).dt = s.dt := rfl
@[simp] theorem State.setI_st (a : Word) : (s.setI a).st = s.st := rfl
@[simp] theorem State.setI_sp (a : Word) : (s.setI a).sp = s.sp := rfl
@[simp] theorem State.setI_mem (a : Word) : (s.setI a).mem = s.mem := rfl
@[simp] theorem State.setI_fb (a : Word) : (s.setI a).fb = s.fb := rfl
@[simp] theorem State.setI_plen (a : Word) : (s.setI a).plen = s.plen := rfl
@[simp] theorem State.setI_fatal (a : Word) : (s.setI a).fatal = s.fatal := rfl
@[simp] theorem State.setI_events (a : Word) : (s.setI a).events = s.events := rfl
@[simp] theorem State.setI_env (a : Word) : (s.setI a).env = s.env := rfl
@[simp] theorem State.setI_inputs (a : Word) : (s.setI a).inputs = s.inputs := rfl
@[simp] theorem State.setI_draws (a : Word) : (s.setI a).draws = s.draws := rfl
@[simp] theorem State.setI_getV (a : Word) (r : Nibble) : (s.setI a).getV r = s.getV r := rfl
@[simp] theorem State.setI_pixel (a : Word) (row : Fin 32) (col : Fin 64) : (s.setI a).pixel row col = s.pixel row col := rfl

/-! ### blockIndex -/

@[simp] theorem State.blockIndex_v (inc : Bool) (x : Nibble) : (s.blockIndex inc x).v = s.v := by cases inc <;> rfl
@[simp] theorem State.blockIndex_i (inc : Bool) (x : Nibble) : (s.blockIndex inc x).i = if inc then s.i + BitVec.ofNat 16 (x.toNat + 1) else s.i := by cases inc <;> rfl
@[simp] theorem State.blockIndex_pc (inc : Bool) (x : Nibble) : (s.blockIndex inc x).pc = s.pc := by cases inc <;> rfl
@[simp] theorem State.blockIndex_dt (inc : Bool) (x : Nibble) : (s.blockIndex inc x).dt = s.dt := by cases inc <;> rfl
@[simp] theorem State.blockIndex_st (inc : Bool) (x : Nibble) : (s.blockIndex inc x).st = s.st := by cases inc <;> rfl
@[simp] theorem State.blockIndex_sp (inc : Bool) (x : Nibble) : (s.blockIndex inc x).sp = s.sp := by cases inc <;> rfl
@[simp] theorem State.blockIndex_mem (inc : Bool) (x : Nibble) : (s.blockIndex inc x).mem = s.mem := by cases inc <;> rfl
@[simp] theorem State.blockIndex_fb (inc : Bool) (x : Nibble) : (s.blockIndex inc x).fb = s.fb := by cases inc <;> rfl
@[simp] theorem State.blockIndex_plen (inc : Bool) (x : Nibble) : (s.blockIndex inc x).plen = s.plen := by cases inc <;> rfl
@[simp] theorem State.blockIndex_fatal (inc : Bool) (x : Nibble) : (s.blockIndex inc x).fatal = s.fatal := by cases inc <;> rfl
@[simp] theorem State.blockIndex_events (inc : Bool) (x : Nibble) : (s.blockIndex inc x).events = s.events := by cases inc <;> rfl
@[simp] theorem State.blockIndex_env (inc : Bool) (x : Nibble) : (s.blockIndex inc x).env = s.env := by cases inc <;> rfl
@[simp] theorem State.blockIndex_inputs (inc : Bool) (x : Nibble) : (s.blockIndex inc x).inputs = s.inputs := by cases inc <;> rfl
@[simp] theorem State.blockIndex_draws (inc : Bool) (x : Nibble) : (s.blockIndex inc x).draws = s.draws := by cases inc <;> rfl
@[simp] theorem State.blockIndex_getV (inc : Bool) (x : Nibble) (r : Nibble) : (s.blockIndex inc x).getV r = s.getV r := by cases inc <;> rfl
@[simp] theorem State.blockIndex_pixel (inc : Bool) (x : Nibble) (row : Fin 32) (col : Fin 64) : (s.blockIndex inc x).pixel row col = s.pixel row col := by cases inc <;> rfl

/-! ### setDt -/

@[simp] theorem State.setDt_v (b : Byte) : (s.setDt b).v = s.v := rfl
@[simp] theorem State.setDt_i (b : Byte) : (s.setDt b).i = s.i := rfl
@[simp] theorem State.setDt_pc (b : Byte) : (s.setDt b).pc = s.pc := rfl
@[simp] theorem State.setDt_dt (b : Byte) : (s.setDt b).dt = b := rfl
@[simp] theorem State.setDt_st (b : Byte) : (s.setDt b).st = s.st := rfl
@[simp] theorem State.setDt_sp (b : Byte) : (s.setDt b).sp = s.sp := rfl
@[simp] theorem State.setDt_mem (b : Byte) : (s.setDt b).mem = s.mem := rfl
@[simp] theorem State.setDt_fb (b : Byte) : (s.setDt b).fb = s.fb := rfl
@[simp] theorem State.setDt_plen (b : Byte) : (s.setDt b).plen = s.plen := rfl
@[simp] theorem State.setDt_fatal (b : Byte) : (s.setDt b).fatal = s.fatal := rfl
@[simp] theorem State.setDt_events (b : Byte) : (s.setDt b).events = s.events := rfl
@[simp] theorem State.setDt_env (b : Byte) : (s.setDt b).env = s.env := rfl
@[simp] theorem State.setDt_inputs (b : Byte) : (s.setDt b).inputs = s.inputs := rfl
@[simp] theorem State.setDt_draws (b : Byte) : (s.setDt b).draws = s.draws := rfl
@[simp] theorem State.setDt_getV (b : Byte) (r : Nibble) : (s.setDt b).getV r = s.getV r := rfl
@[simp] theorem State.setDt_pixel (b : Byte) (row : Fin 32) (col : Fin 64) : (s.setDt b).pixel row col = s.pixel row col := rfl
@[simp] theorem State.setDt_addrI (b : Byte) (k : Nat) : (s.setDt b).addrI k = s.addrI k := rfl

/-! ### setSt -/

@[simp] theorem State.setSt_v (b : Byte) : (s.setSt b).v = s.v := rfl
@[simp] theorem State.setSt_i (b : Byte) : (s.setSt b).i = s.i := rfl
@[simp] theorem State.setSt_pc (b : Byte) : (s.setSt b).pc = s.pc := rfl
@[simp] theorem State.setSt_dt (b : Byte) : (s.setSt b).dt = s.dt := rfl
@[simp] theorem State.setSt_st (b : Byte) : (s.setSt b).st = b := rfl
@[simp] theorem State.setSt_sp (b : Byte) : (s.setSt b).sp = s.sp := rfl
@[simp] theorem State.setSt_mem (b : Byte) : (s.setSt b).mem = s.mem := rfl
@[simp] theorem State.setSt_fb (b : Byte) : (s.setSt b).fb = s.fb := rfl
@[simp] theorem State.setSt_plen (b : Byte) : (s.setSt b).plen = s.plen := rfl
@[simp] theorem State.setSt_fatal (b : Byte) : (s.setSt b).fatal = s.fatal := rfl
@[simp] theorem State.setSt_events (b : Byte) : (s.setSt b).events = s.events := rfl
@[simp] theorem State.setSt_env (b : Byte) : (s.setSt b).env = s.env := rfl
@[simp] theorem State.setSt_inputs (b : Byte) : (s.setSt b).inputs = s.inputs := rfl
@[simp] theorem State.setSt_draws (b : Byte) : (s.setSt b).draws = s.draws := rfl
@[simp] theorem State.setSt_getV (b : Byte) (r : Nibble) : (s.setSt b).getV r = s.getV r := rfl
@[simp] theorem State.setSt_pixel (b : Byte) (row : Fin 32) (col : Fin 64) : (s.setSt b).pixel row col = s.pixel row col := rfl
@[simp] theorem State.setSt_addrI (b : Byte) (k : Nat) : (s.setSt b).addrI k = s.addrI k := rfl

/-! ### store -/

@[simp] theorem State.store_v (a : Nat) (bs : List Byte) : (s.store a bs).v = s.v := rfl
@[simp] theorem State.store_i (a : Nat) (bs : List Byte) : (s.store a bs).i = s.i := rfl
@[simp] theorem State.store_pc (a : Nat) (bs : List Byte) : (s.store a bs).pc = s.pc := rfl
@[simp] theorem State.store_dt (a : Nat) (bs : List Byte) : (s.store a bs).dt = s.dt := rfl
@[simp] theorem State.store_st (a : Nat) (bs : List Byte) : (s.store a bs).st = s.st := rfl
@[simp] theorem State.store_sp (a : Nat) (bs : List Byte) : (s.store a bs).sp = s.sp := rfl
@[simp] theorem State.store_mem (a : Nat) (bs : List Byte) : (s.store a bs).mem = Memory.writeBytes s.mem a bs := rfl
@[simp] theorem State.store_fb (a : Nat) (bs : List Byte) : (s.store a bs).fb = s.fb := rfl
@[simp] theorem State.store_plen (a : Nat) (bs : List Byte) : (s.store a bs).plen = s.plen := rfl
@[simp] theorem State.store_fatal (a : Nat) (bs : List Byte) : (s.store a bs).fatal = s.fatal := rfl
@[simp] theorem State.store_events (a : Nat) (bs : List Byte) : (s.store a bs).events = s.events := rfl
@[simp] theorem State.store_env (a : Nat) (bs : List Byte) : (s.store a bs).env = s.env := rfl
@[simp] theorem State.store_inputs (a : Nat) (bs : List Byte) : (s.store a bs).inputs = s.inputs := rfl
@[simp] theorem State.store_draws (a : Nat) (bs : List Byte) : (s.store a bs).draws = s.draws := rfl
@[simp] theorem State.store_getV (a : Nat) (bs : List Byte) (r : Nibble) : (s.store a bs).getV r = s.getV r := rfl
@[simp] theorem State.store_pixel (a : Nat) (bs : List Byte) (row : Fin 32) (col : Fin 64) : (s.store a bs).pixel row col = s.pixel row col := rfl
@[simp] theorem State.store_addrI (a : Nat) (bs : List Byte) (k : Nat) : (s.store a bs).addrI k = s.addrI k := rfl

/-! ### setFb -/

@[simp] theorem State.setFb_v (fb : FrameBuffer) : (s.setFb fb).v = s.v := rfl
@[simp] theorem State.setFb_i (fb : FrameBuffer) : (s.setFb fb).i = s.i := rfl
@[simp] theorem State.setFb_pc (fb : FrameBuffer) : (s.setFb fb).pc = s.pc := rfl
@[simp] theorem State.setFb_dt (fb : FrameBuffer) : (s.setFb fb).dt = s.dt := rfl
@[simp] theorem State.setFb_st (fb : FrameBuffer) : (s.setFb fb).st = s.st := rfl
@[simp] theorem State.setFb_sp (fb : FrameBuffer) : (s.setFb fb).sp = s.sp := rfl
@[simp] theorem State.setFb_mem (fb : FrameBuffer) : (s.setFb fb).mem = s.mem := rfl
@[simp] theorem State.setFb_fb (fb : FrameBuffer) : (s.setFb fb).fb = fb := rfl
@[simp] theorem State.setFb_plen (fb : FrameBuffer) : (s.setFb fb).plen = s.plen := rfl
@[simp] theorem State.setFb_fatal (fb : FrameBuffer) : (s.setFb fb).fatal = s.fatal := rfl
@[simp] theorem State.setFb_events (fb : FrameBuffer) : (s.setFb fb).events = s.events := rfl
@[simp] theorem State.setFb_env (fb : FrameBuffer) : (s.setFb fb).env = s.env := rfl
@[simp] theorem State.setFb_inputs (fb : FrameBuffer) : (s.setFb fb).inputs = s.inputs := rfl
@[simp] theorem State.setFb_draws (fb : FrameBuffer) : (s.setFb fb).draws = s.draws := rfl
@[simp] theorem State.setFb_getV (fb : FrameBuffer) (r : Nibble) : (s.setFb fb).getV r = s.getV r := rfl
@[simp] theorem State.setFb_addrI (fb : FrameBuffer) (k : Nat) : (s.setFb fb).addrI k = s.addrI k := rfl

/-! ### emit -/

@[simp] theorem State.emit_v (e : Event) : (s.emit e).v = s.v := rfl
@[simp] theorem State.emit_i (e : Event) : (s.emit e).i = s.i := rfl
@[simp] theorem State.emit_pc (e : Event) : (s.emit e).pc = s.pc := rfl
@[simp] theorem State.emit_dt (e : Event) : (s.emit e).dt = s.dt := rfl
@[simp] theorem State.emit_st (e : Event) : (s.emit e).st = s.st := rfl
@[simp] theorem State.emit_sp (e : Event) : (s.emit e).sp = s.sp := rfl
@[simp] theorem State.emit_mem (e : Event) : (s.emit e).mem = s.mem := rfl
@[simp] theorem State.emit_fb (e : Event) : (s.emit e).fb = s.fb := rfl
@[simp] theorem State.emit_plen (e : Event) : (s.emit e).plen = s.plen := rfl
@[simp] theorem State.emit_fatal (e : Event) : (s.emit e).fatal = s.fatal := rfl
@[simp] theorem State.emit_events (e : Event) : (s.emit e).events = s.events ++ [e] := rfl
@[simp] theorem State.emit_env (e : Event) : (s.emit e).env = s.env := rfl
@[simp] theorem State.emit_inputs (e : Event) : (s.emit e).inputs = s.inputs := rfl
@[simp] theorem State.emit_draws (e : Event) : (s.emit e).draws = s.draws := rfl
@[simp] theorem State.emit_getV (e : Event) (r : Nibble) : (s.emit e).getV r = s.getV r := rfl
@[simp] theorem State.emit_pixel (e : Event) (row : Fin 32) (col : Fin 64) : (s.emit e).pixel row col = s.pixel row col := rfl
@[simp] theorem State.emit_addrI (e : Event) (k : Nat) : (s.emit e).addrI k = s.addrI k := rfl

/-! ### latchFatal -/

@[simp] theorem State.latchFatal_v (c : FatalCause) (pc instr : Word) : (s.latchFatal c pc instr).v = s.v := rfl
@[simp] theorem State.latchFatal_i (c : FatalCause) (pc instr : Word) : (s.latchFatal c pc instr).i = s.i := rfl
@[simp] theorem State.latchFatal_pc (c : FatalCause) (pc instr : Word) : (s.latchFatal c pc instr).pc = s.pc := rfl
@[simp] theorem State.latchFatal_dt (c : FatalCause) (pc instr : Word) : (s.latchFatal c pc instr).dt = s.dt := rfl
@[simp] theorem State.latchFatal_st (c : FatalCause) (pc instr : Word) : (s.latchFatal c pc instr).st = s.st := rfl
@[simp] theorem State.latchFatal_sp (c : FatalCause) (pc instr : Word) : (s.latchFatal c pc instr).sp = s.sp := rfl
@[simp] theorem State.latchFatal_mem (c : FatalCause) (pc instr : Word) : (s.latchFatal c pc instr).mem = s.mem := rfl
@[simp] theorem State.latchFatal_fb (c : FatalCause) (pc instr : Word) : (s.latchFatal c pc instr).fb = s.fb := rfl
@[simp] theorem State.latchFatal_plen (c : FatalCause) (pc instr : Word) : (s.latchFatal c pc instr).plen = s.plen := rfl
@[simp] theorem State.latchFatal_fatal (c : FatalCause) (pc instr : Word) : (s.latchFatal c pc instr).fatal = some c := rfl
@[simp] theorem State.latchFatal_events (c : FatalCause) (pc instr : Word) : (s.latchFatal c pc instr).events = s.events ++ [.fatal c pc instr] := rfl
@[simp] theorem State.latchFatal_env (c : FatalCause) (pc instr : Word) : (s.latchFatal c pc instr).env = s.env := rfl
@[simp] theorem State.latchFatal_inputs (c : FatalCause) (pc instr : Word) : (s.latchFatal c pc instr).inputs = s.inputs := rfl
@[simp] theorem State.latchFatal_draws (c : FatalCause) (pc instr : Word) : (s.latchFatal c pc instr).draws = s.draws := rfl
@[simp] theorem State.latchFatal_getV (c : FatalCause) (pc instr : Word) (r : Nibble) : (s.latchFatal c pc instr).getV r = s.getV r := rfl
@[simp] theorem State.latchFatal_pixel (c : FatalCause) (pc instr : Word) (row : Fin 32) (col : Fin 64) : (s.latchFatal c pc instr).pixel row col = s.pixel row col := rfl
@[simp] theorem State.latchFatal_addrI (c : FatalCause) (pc instr : Word) (k : Nat) : (s.latchFatal c pc instr).addrI k = s.addrI k := rfl

/-! ### timerTick -/

@[simp] theorem State.timerTick_v : (s.timerTick).v = s.v := rfl
@[simp] theorem State.timerTick_i : (s.timerTick).i = s.i := rfl
@[simp] theorem State.timerTick_pc : (s.timerTick).pc = s.pc := rfl
@[simp] theorem State.timerTick_dt : (s.timerTick).dt = tickDown s.dt := rfl
@[simp] theorem State.timerTick_st : (s.timerTick).st = tickDown s.st := rfl
@[simp] theorem State.timerTick_sp : (s.timerTick).sp = s.sp := rfl
@[simp] theorem State.timerTick_mem : (s.timerTick).mem = s.mem := rfl
@[simp] theorem State.timerTick_fb : (s.timerTick).fb = s.fb := rfl
@[simp] theorem State.timerTick_plen : (s.timerTick).plen = s.plen := rfl
@[simp] theorem State.timerTick_fatal : (s.timerTick).fatal = s.fatal := rfl
@[simp] theorem State.timerTick_events : (s.timerTick).events = s.events := rfl
@[simp] theorem State.timerTick_env : (s.timerTick).env = s.env := rfl
@[simp] theorem State.timerTick_inputs : (s.timerTick).inputs = s.inputs := rfl
@[simp] theorem State.timerTick_draws : (s.timerTick).draws = s.draws := rfl
@[simp] theorem State.timerTick_getV (r : Nibble) : (s.timerTick).getV r = s.getV r := rfl
@[simp] theorem State.timerTick_pixel (row : Fin 32) (col : Fin 64) : (s.timerTick).pixel row col = s.pixel row col := rfl
@[simp] theorem State.timerTick_addrI (k : Nat) : (s.timerTick).addrI k = s.addrI k := rfl

/-! ### timerTicks -/

@[simp] theorem State.timerTicks_v (n : Nat) : (s.timerTicks n).v = s.v := rfl
@[simp] theorem State.timerTicks_i (n : Nat) : (s.timerTicks n).i = s.i := rfl
@[simp] theorem State.timerTicks_pc (n : Nat) : (s.timerTicks n).pc = s.pc := rfl
@[simp] theorem State.timerTicks_dt (n : Nat) : (s.timerTicks n).dt = countDown n s.dt := rfl
@[simp] theorem State.timerTicks_st (n : Nat) : (s.timerTicks n).st = countDown n s.st := rfl
@[simp] theorem State.timerTicks_sp (n : Nat) : (s.timerTicks n).sp = s.sp := rfl
@[simp] theorem State.timerTicks_mem (n : Nat) : (s.timerTicks n).mem = s.mem := rfl
@[simp] theorem State.timerTicks_fb (n : Nat) : (s.timerTicks n).fb = s.fb := rfl
@[simp] theorem State.timerTicks_plen (n : Nat) : (s.timerTicks n).plen = s.plen := rfl
@[simp] theorem State.timerTicks_fatal (n : Nat) : (s.timerTicks n).fatal = s.fatal := rfl
@[simp] theorem State.timerTicks_events (n : Nat) : (s.timerTicks n).events = s.events := rfl
@[simp] theorem State.timerTicks_env (n : Nat) : (s.timerTicks n).env = s.env := rfl
@[simp] theorem State.timerTicks_inputs (n : Nat) : (s.timerTicks n).inputs = s.inputs := rfl
@[simp] theorem State.timerTicks_draws (n : Nat) : (s.timerTicks n).draws = s.draws := rfl
@[simp] theorem State.timerTicks_getV (n : Nat) (r : Nibble) : (s.timerTicks n).getV r = s.getV r := rfl
@[simp] theorem State.timerTicks_pixel (n : Nat) (row : Fin 32) (col : Fin 64) : (s.timerTicks n).pixel row col = s.pixel row col := rfl
@[simp] theorem State.timerTicks_addrI (n : Nat) (k : Nat) : (s.timerTicks n).addrI k = s.addrI k := rfl

/-! ### takeInput -/

@[simp] theorem State.takeInput_v : (s.takeInput).v = s.v := rfl
@[simp] theorem State.takeInput_i : (s.takeInput).i = s.i := rfl
@[simp] theorem State.takeInput_pc : (s.takeInput).pc = s.pc := rfl
@[simp] theorem State.takeInput_dt : (s.takeInput).dt = countDown s.nextInput.ticks s.dt := rfl
@[simp] theorem State.takeInput_st : (s.takeInput).st = countDown s.nextInput.ticks s.st := rfl
@[simp] theorem State.takeInput_sp : (s.takeInput).sp = s.sp := rfl
@[simp] theorem State.takeInput_mem : (s.takeInput).mem = s.mem := rfl
@[simp] theorem State.takeInput_fb : (s.takeInput).fb = s.fb := rfl
@[simp] theorem State.takeInput_plen : (s.takeInput).plen = s.plen := rfl
@[simp] theorem State.takeInput_fatal : (s.takeInput).fatal = s.fatal := rfl
@[simp] theorem State.takeInput_events : (s.takeInput).events = s.events := rfl
@[simp] theorem State.takeInput_env : (s.takeInput).env = s.nextInput.env := rfl
@[simp] theorem State.takeInput_inputs : (s.takeInput).inputs = s.inputs.tail := rfl
@[simp] theorem State.takeInput_draws : (s.takeInput).draws = s.draws + 1 := rfl
@[simp] theorem State.takeInput_getV (r : Nibble) : (s.takeInput).getV r = s.getV r := rfl
@[simp] theorem State.takeInput_pixel (row : Fin 32) (col : Fin 64) : (s.takeInput).pixel row col = s.pixel row col := rfl
@[simp] theorem State.takeInput_addrI (k : Nat) : (s.takeInput).addrI k = s.addrI k := rfl

/-! ### unimplemented -/

@[simp] theorem unimplemented_v (i : Instr) : (unimplemented i s).v = s.v := rfl
@[simp] theorem unimplemented_i (i : Instr) : (unimplemented i s).i = s.i := rfl
@[simp] theorem unimplemented_pc (i : Instr) : (unimplemented i s).pc = s.pc + 2#16 := rfl
@[simp] theorem unimplemented_dt (i : Instr) : (unimplemented i s).dt = s.dt := rfl
@[simp] theorem unimplemented_st (i : Instr) : (unimplemented i s).st = s.st := rfl
@[simp] theorem unimplemented_sp (i : Instr) : (unimplemented i s).sp = s.sp := rfl
@[simp] theorem unimplemented_mem (i : Instr) : (unimplemented i s).mem = s.mem := rfl
@[simp] theorem unimplemented_fb (i : Instr) : (unimplemented i s).fb = s.fb := rfl
@[simp] theorem unimplemented_plen (i : Instr) : (unimplemented i s).plen = s.plen := rfl
@[simp] theorem unimplemented_fatal (i : Instr) : (unimplemented i s).fatal = s.fatal := rfl
@[simp] theorem unimplemented_events (i : Instr) : (unimplemented i s).events = s.events ++ [.diagUnimplemented s.pc (encode i)] := rfl
@[simp] theorem unimplemented_env (i : Instr) : (unimplemented i s).env = s.env := rfl
@[simp] theorem unimplemented_inputs (i : Instr) : (unimplemented i s).inputs = s.inputs := rfl
@[simp] theorem unimplemented_draws (i : Instr) : (unimplemented i s).draws = s.draws := rfl
@[simp] theorem unimplemented_getV (i : Instr) (r : Nibble) : (unimplemented i s).getV r = s.getV r := rfl
@[simp] theorem unimplemented_pixel (i : Instr) (row : Fin 32) (col : Fin 64) : (unimplemented i s).pixel row col = s.pixel row col := rfl

/-! ### Registers -/

/-- A register read after a register write (R11). -/
@[simp] theorem State.getV_setV (x r : Nibble) (b : Byte) :
    (s.setV x b).getV r = if r = x then b else s.getV r := by
  simp only [State.getV, State.setV, Vector.getElem_set]
  by_cases h : r = x
  · simp [h]
  · have : x.toNat ≠ r.toNat := fun e => h (BitVec.eq_of_toNat_eq e.symm)
    simp [h, this]

/-- A register read after the flag write (R22). -/
@[simp] theorem State.getV_setFlag (r : Nibble) (f : Bool) :
    (s.setFlag f).getV r = if r = vf then flagByte f else s.getV r := by
  simp [State.setFlag]

/-- The flag is what remains in VF (R130, the spec's default order). -/
@[simp] theorem State.getV_setResultFlag_flagLast (x r : Nibble) (b : Byte) (f : Bool) :
    (s.setResultFlag .flagLast x b f).getV r = if r = vf then flagByte f else if r = x then b else s.getV r := by
  simp [State.setResultFlag]

/-- The result is what remains (R130, the alternative order). -/
@[simp] theorem State.getV_setResultFlag_resultLast (x r : Nibble) (b : Byte) (f : Bool) :
    (s.setResultFlag .resultLast x b f).getV r = if r = x then b else if r = vf then flagByte f else s.getV r := by
  simp [State.setResultFlag]

/-- A loaded block, register by register (R178). -/
theorem getElem_loadBlock (m : Memory) (a n : Nat) (v : Vector Byte 16) (k : Nat) (h : k < 16) :
    (loadBlock m a n v)[k] = if k < n then Memory.read m (a + k) else v[k] := by
  induction n with
  | zero => simp [loadBlock]
  | succ n ih =>
    simp only [loadBlock, Vector.getElem_setIfInBounds, ih]
    by_cases e : n = k
    · subst e; simp
    · have : (k < n + 1) ↔ (k < n) := by omega
      simp [e, this]

/-- A register read after a block load: V0..Vx from memory, the others as before (R178). -/
@[simp] theorem State.getV_setBlock (x r : Nibble) :
    (s.setBlock x).getV r =
      if r.toNat ≤ x.toNat then Memory.read s.mem (s.addrI r.toNat) else s.getV r := by
  simp only [State.getV, State.setBlock, getElem_loadBlock, State.addrI, Nat.add_zero, Nat.lt_succ_iff]

/-- The block V0..Vx holds `x + 1` bytes (R177). -/
@[simp] theorem State.length_block (x : Nibble) : (s.block x).length = x.toNat + 1 := by
  have := x.isLt
  simp [State.block]; omega

/-- The `k`-th byte of the block is `V[k]` (R177). -/
theorem State.getElem_block (x : Nibble) (k : Nat) (h : k < (s.block x).length) :
    (s.block x)[k] = s.getV (BitVec.ofNat 4 k) := by
  have := x.isLt
  have hk : k < 16 := by simp at h; omega
  simp [State.block, State.getV, Nat.mod_eq_of_lt hk]

/-! ### Timers -/

/-- `n` ticks are `n` times the agent's one step (R209). -/
theorem State.timerTicks_succ (n : Nat) : s.timerTicks (n + 1) = s.timerTick.timerTicks n := rfl

/-- A timer after `n` ticks: down by `n`, never below zero (R209). -/
theorem toNat_countDown (n : Nat) (t : Byte) : (countDown n t).toNat = t.toNat - n := by
  induction n generalizing t with
  | zero => rfl
  | succ n ih =>
    rw [countDown, ih, tickDown]
    split
    · simp [*]
    · have h0 : t.toNat ≠ 0 := fun e => ‹¬t = 0#8› (BitVec.eq_of_toNat_eq e)
      have := t.isLt
      rw [BitVec.toNat_sub]; simp; omega

end Sys2Proof.Machine
end

