-- ==== Sys2Proof/Laws/Ops.lean ====
section
/-! SUPPORT. What each shared operation can do, said once: the bounds check, the stack, the key choice, the sampled
keys, one step, the word placed for the next step. -/

namespace Sys2Proof.Machine

/-! ### The parameters chosen -/

@[simp] theorem params_fontBase : params.fontBase = 0 := rfl
@[simp] theorem params_vfWriteOrder : params.vfWriteOrder = .flagLast := rfl
@[simp] theorem params_drawFlagPolicy : params.drawFlagPolicy = .standard := rfl
@[simp] theorem params_loadStoreIncrementsI : params.loadStoreIncrementsI = false := rfl

/-- R3, R41. -/
theorem params_wf : params.wf = true := by decide

/-! ### Bounds -/

theorem inBounds_iff (a n : Nat) : inBounds a n = true ↔ n = 0 ∨ a + n ≤ 4096 := by
  simp [inBounds, memSize]

theorem inBounds_eq_false_iff (a n : Nat) : inBounds a n = false ↔ 0 < n ∧ 4096 < a + n := by
  rw [← Bool.not_eq_true, inBounds_iff]; omega

@[simp] theorem State.addrI_eq (s : State) (k : Nat) : s.addrI k = s.i.toNat + k := rfl

theorem slotAddr_eq (k : Nat) : slotAddr k = 0xEA0 + 2 * k := rfl

/-! ### The stack (R52, R53) -/

theorem State.push_of_lt (s : State) (a : Word) (h : s.sp.val < 24) :
    s.push a = some { s with
      mem := Memory.writeBytes s.mem (slotAddr s.sp.val) [hiByte a, loByte a]
      sp := ⟨s.sp.val + 1, Nat.succ_lt_succ h⟩ } := by
  simp [State.push, h]

theorem State.push_of_full (s : State) (a : Word) (h : s.sp.val = 24) : s.push a = none := by
  simp [State.push, h]

theorem State.push_eq_some (s t : State) (a : Word) (h : s.push a = some t) :
    ∃ hlt : s.sp.val < 24, t = { s with
      mem := Memory.writeBytes s.mem (slotAddr s.sp.val) [hiByte a, loByte a]
      sp := ⟨s.sp.val + 1, Nat.succ_lt_succ hlt⟩ } := by
  by_cases hlt : s.sp.val < 24
  · exact ⟨hlt, by rw [State.push_of_lt s a hlt] at h; simpa using h.symm⟩
  · rw [State.push_of_full s a (by have := s.sp.isLt; omega)] at h; cases h

theorem State.pop_of_succ (s : State) (k : Nat) (h : s.sp.val = k + 1) :
    s.pop = some (joinBytes (Memory.read s.mem (slotAddr k)) (Memory.read s.mem (slotAddr k + 1)),
      { s with sp := ⟨k, by have := s.sp.isLt; omega⟩ }) := by
  have e : s.sp = ⟨k + 1, by have := s.sp.isLt; omega⟩ := Fin.ext h
  unfold State.pop
  split
  · next e' => rw [e] at e'; simp at e'
  · next j _ e' =>
    rw [e] at e'
    simp only [Fin.mk.injEq, Nat.succ_eq_add_one, Nat.add_right_cancel_iff] at e'
    subst e'; rfl

theorem State.pop_of_zero (s : State) (h : s.sp.val = 0) : s.pop = none := by
  have e : s.sp = ⟨0, by omega⟩ := Fin.ext h
  unfold State.pop
  split
  · rfl
  · next e' => rw [e] at e'; simp at e'

theorem State.pop_eq_some (s t : State) (a : Word) (h : s.pop = some (a, t)) :
    ∃ k, ∃ hk : s.sp.val = k + 1,
      a = joinBytes (Memory.read s.mem (slotAddr k)) (Memory.read s.mem (slotAddr k + 1)) ∧
      t = { s with sp := ⟨k, by have := s.sp.isLt; omega⟩ } := by
  rcases Nat.eq_zero_or_eq_succ_pred s.sp.val with h0 | h0
  · rw [State.pop_of_zero s h0] at h; cases h
  · refine ⟨_, h0, ?_⟩
    rw [State.pop_of_succ s _ h0] at h
    simp only [Option.some.injEq, Prod.mk.injEq] at h
    exact ⟨h.1.symm, h.2.symm⟩

/-! ### The keys (R171) -/

/-- The codes sampled by FX0A. -/
theorem Env.mem_pressed (e : Env) (k : Nibble) : k ∈ e.pressed ↔ e.keys.getLsbD k.toNat = true := by
  have hk := k.isLt
  simp only [Env.pressed, Env.key, List.mem_filter, List.mem_map, List.mem_range]
  constructor
  · rintro ⟨-, h⟩; simpa [Nat.mod_eq_of_lt (show k.toNat < 256 by omega)] using h
  · intro h
    exact ⟨⟨k.toNat, hk, by simp⟩, by simpa [Nat.mod_eq_of_lt (show k.toNat < 256 by omega)] using h⟩

/-- No key is reported exactly when none of 0..15 is down. -/
theorem Env.chosenKey_eq_none (e : Env) : e.chosenKey = none ↔ e.pressed = [] := by
  rw [Env.chosenKey, List.getElem?_eq_none_iff]
  constructor
  · intro h
    by_contra hne
    exact absurd (Nat.mod_lt e.pick (List.length_pos_iff.2 hne)) (by omega)
  · intro h; simp [h]

/-- The key reported is one that is down. -/
theorem Env.chosenKey_mem (e : Env) (k : Nibble) (h : e.chosenKey = some k) : k ∈ e.pressed :=
  List.mem_of_getElem? h

/-- Any key that is down is reported for some draw. -/
theorem Env.exists_pick (e : Env) (k : Nibble) (h : k ∈ e.pressed) :
    ∃ p, Env.chosenKey { e with pick := p } = some k := by
  obtain ⟨j, hj, rfl⟩ := List.getElem_of_mem h
  refine ⟨j, ?_⟩
  show e.pressed[j % e.pressed.length]? = some e.pressed[j]
  rw [Nat.mod_eq_of_lt hj, List.getElem?_eq_getElem hj]

/-! ### Flags -/

theorem toNat_flagByte (f : Bool) : (flagByte f).toNat = if f then 1 else 0 := by cases f <;> rfl

theorem flagByte_cases (f : Bool) : flagByte f = 0x00#8 ∨ flagByte f = 0x01#8 := by cases f <;> decide

/-! ### The step -/

theorem State.pcInProgram_iff (s : State) :
    s.pcInProgram = true ↔ 0x200 ≤ s.pc.toNat ∧ s.pc.toNat < 0x200 + s.plen.val := by
  simp [State.pcInProgram, progBase]

theorem State.stepEnabled_iff (s : State) :
    s.stepEnabled = true ↔ s.fatal = none ∧ 0x200 ≤ s.pc.toNat ∧ s.pc.toNat < 0x200 + s.plen.val := by
  rw [State.stepEnabled, Bool.and_eq_true, State.pcInProgram_iff, Option.isNone_iff_eq_none]

/-- An enabled step executes the word at PC (R76). -/
theorem step_of_enabled (s : State) (h : s.stepEnabled = true) :
    step s = exec (decodeWord s.fetchWord) s.takeInput := by
  simp only [State.stepEnabled, Bool.and_eq_true] at h
  simp [step, h]

/-- All a step can do: execute where it is enabled, be stuck where it is not (R245). -/
theorem step_cases (s : State) :
    (s.stepEnabled = true ∧ step s = exec (decodeWord s.fetchWord) s.takeInput) ∨
    (s.fatal = none ∧ s.pcInProgram = false ∧ step s = .fault (.halted s)) ∨
    (s.fatal ≠ none ∧ step s = .fault (.stoppedByFatal s)) := by
  by_cases h : s.fatal = none
  · cases hp : s.pcInProgram
    · exact .inr (.inl ⟨h, rfl, by simp [step, h, hp]⟩)
    · have e : s.stepEnabled = true := by simp [State.stepEnabled, h, hp]
      exact .inl ⟨e, step_of_enabled s e⟩
  · refine .inr (.inr ⟨h, ?_⟩)
    have : s.fatal.isNone = false := by cases hf : s.fatal <;> simp_all
    simp [step, this]

/-- A step that completes was enabled and is the instruction's. -/
theorem step_eq_next (s t : State) (h : step s = .next t) :
    s.stepEnabled = true ∧ exec (decodeWord s.fetchWord) s.takeInput = .next t := by
  rcases step_cases s with ⟨e, h'⟩ | ⟨-, -, h'⟩ | ⟨-, h'⟩
  · exact ⟨e, h' ▸ h⟩
  · rw [h'] at h; cases h
  · rw [h'] at h; cases h

/-! ### Memory after an instruction -/

/-- All that a completing instruction can do to memory: nothing, or store bytes inside [0, 4096) (R49, R55). -/
theorem exec_mem (i : Instr) (s t : State) (h : exec i s = .next t) :
    t.mem = s.mem ∨ ∃ a bs, a + bs.length ≤ 4096 ∧ t.mem = Memory.writeBytes s.mem a bs := by
  cases i <;> simp only [exec] at h
  case ret =>
    simp only [execRet] at h
    split at h
    · next hp =>
      obtain ⟨k, hk, -, rfl⟩ := State.pop_eq_some _ _ _ hp
      cases h; exact .inl rfl
    · cases h
  case call =>
    simp only [execCall] at h
    split at h
    · next hp =>
      obtain ⟨hlt, rfl⟩ := State.push_eq_some _ _ _ hp
      cases h
      refine .inr ⟨slotAddr s.sp.val, _, ?_, rfl⟩
      rw [slotAddr_eq]; simp; omega
    · cases h
  case drw =>
    simp only [execDrw] at h
    split at h
    · cases h; exact .inl rfl
    · cases h
  case ldBcd x =>
    simp only [execLdBcd] at h
    split at h
    · next hb =>
      cases h
      have := (inBounds_iff _ _).1 hb
      exact .inr ⟨s.addrI 0, bcdDigits (s.getV x), by simpa [bcdDigits] using this, rfl⟩
    · cases h
  case storeRegs x =>
    simp only [execStoreRegs] at h
    split at h
    · next hb =>
      cases h
      have := (inBounds_iff _ _).1 hb
      exact .inr ⟨s.addrI 0, s.block x, by simpa using this, by simp⟩
    · cases h
  case loadRegs x =>
    simp only [execLoadRegs] at h
    split at h
    · cases h; exact .inl (by simp)
    · cases h
  case ldKey x =>
    simp only [execLdKey] at h
    cases h
    unfold keyWait; split <;> exact .inl rfl
  all_goals
    cases h
    exact .inl (by first | rfl | simp)

end Sys2Proof.Machine
end

