-- ==== Sys2Proof/Laws/PerInstr.lean ====
section
/-! SUPPORT. The family RoundTrip: for each constructor, decoding its word gives it back (30_encoding.md R80, R81). -/

namespace Sys2Proof.Laws

/-- A well-formed instruction's word decodes to it, with every operand. -/
def RoundTrip.Statement (i : Instr) : Prop := i.wf = true → decodeWord (encode i) = i

theorem RoundTrip.cls : RoundTrip.Statement .cls := fun _ => by decide

theorem RoundTrip.ret : RoundTrip.Statement .ret := fun _ => by decide

theorem RoundTrip.jp (nnn : Addr12) : RoundTrip.Statement (.jp nnn) := fun _ => by simp [encode, decodeWord]

theorem RoundTrip.call (nnn : Addr12) : RoundTrip.Statement (.call nnn) := fun _ => by simp [encode, decodeWord]

theorem RoundTrip.seImm (x : Nibble) (nn : Byte) : RoundTrip.Statement (.seImm x nn) := fun _ => by simp [encode, decodeWord]

theorem RoundTrip.sneImm (x : Nibble) (nn : Byte) : RoundTrip.Statement (.sneImm x nn) := fun _ => by simp [encode, decodeWord]

theorem RoundTrip.seReg (x : Nibble) (y : Nibble) (n : Nibble) : RoundTrip.Statement (.seReg x y n) := fun _ => by simp [encode, decodeWord]

theorem RoundTrip.ldImm (x : Nibble) (nn : Byte) : RoundTrip.Statement (.ldImm x nn) := fun _ => by simp [encode, decodeWord]

theorem RoundTrip.addImm (x : Nibble) (nn : Byte) : RoundTrip.Statement (.addImm x nn) := fun _ => by simp [encode, decodeWord]

theorem RoundTrip.ldReg (x : Nibble) (y : Nibble) : RoundTrip.Statement (.ldReg x y) := fun _ => by simp [encode, decodeWord, decode8]

theorem RoundTrip.orReg (x : Nibble) (y : Nibble) : RoundTrip.Statement (.orReg x y) := fun _ => by simp [encode, decodeWord, decode8]

theorem RoundTrip.andReg (x : Nibble) (y : Nibble) : RoundTrip.Statement (.andReg x y) := fun _ => by simp [encode, decodeWord, decode8]

theorem RoundTrip.xorReg (x : Nibble) (y : Nibble) : RoundTrip.Statement (.xorReg x y) := fun _ => by simp [encode, decodeWord, decode8]

theorem RoundTrip.addReg (x : Nibble) (y : Nibble) : RoundTrip.Statement (.addReg x y) := fun _ => by simp [encode, decodeWord, decode8]

theorem RoundTrip.subReg (x : Nibble) (y : Nibble) : RoundTrip.Statement (.subReg x y) := fun _ => by simp [encode, decodeWord, decode8]

theorem RoundTrip.shr (x : Nibble) (y : Nibble) : RoundTrip.Statement (.shr x y) := fun _ => by simp [encode, decodeWord, decode8]

theorem RoundTrip.subnReg (x : Nibble) (y : Nibble) : RoundTrip.Statement (.subnReg x y) := fun _ => by simp [encode, decodeWord, decode8]

theorem RoundTrip.shl (x : Nibble) (y : Nibble) : RoundTrip.Statement (.shl x y) := fun _ => by simp [encode, decodeWord, decode8]

theorem RoundTrip.sneReg (x : Nibble) (y : Nibble) (n : Nibble) : RoundTrip.Statement (.sneReg x y n) := fun _ => by simp [encode, decodeWord]

theorem RoundTrip.ldI (nnn : Addr12) : RoundTrip.Statement (.ldI nnn) := fun _ => by simp [encode, decodeWord]

theorem RoundTrip.jpV0 (nnn : Addr12) : RoundTrip.Statement (.jpV0 nnn) := fun _ => by simp [encode, decodeWord]

theorem RoundTrip.rnd (x : Nibble) (nn : Byte) : RoundTrip.Statement (.rnd x nn) := fun _ => by simp [encode, decodeWord]

theorem RoundTrip.drw (x : Nibble) (y : Nibble) (n : Nibble) : RoundTrip.Statement (.drw x y n) := fun _ => by simp [encode, decodeWord]

theorem RoundTrip.skp (x : Nibble) : RoundTrip.Statement (.skp x) := fun _ => by simp [encode, decodeWord, decodeE]

theorem RoundTrip.sknp (x : Nibble) : RoundTrip.Statement (.sknp x) := fun _ => by simp [encode, decodeWord, decodeE]

theorem RoundTrip.ldFromDt (x : Nibble) : RoundTrip.Statement (.ldFromDt x) := fun _ => by simp [encode, decodeWord, decodeF]

theorem RoundTrip.ldKey (x : Nibble) : RoundTrip.Statement (.ldKey x) := fun _ => by simp [encode, decodeWord, decodeF]

theorem RoundTrip.ldDt (x : Nibble) : RoundTrip.Statement (.ldDt x) := fun _ => by simp [encode, decodeWord, decodeF]

theorem RoundTrip.ldSt (x : Nibble) : RoundTrip.Statement (.ldSt x) := fun _ => by simp [encode, decodeWord, decodeF]

theorem RoundTrip.addI (x : Nibble) : RoundTrip.Statement (.addI x) := fun _ => by simp [encode, decodeWord, decodeF]

theorem RoundTrip.ldFont (x : Nibble) : RoundTrip.Statement (.ldFont x) := fun _ => by simp [encode, decodeWord, decodeF]

theorem RoundTrip.ldBcd (x : Nibble) : RoundTrip.Statement (.ldBcd x) := fun _ => by simp [encode, decodeWord, decodeF]

theorem RoundTrip.storeRegs (x : Nibble) : RoundTrip.Statement (.storeRegs x) := fun _ => by simp [encode, decodeWord, decodeF]

theorem RoundTrip.loadRegs (x : Nibble) : RoundTrip.Statement (.loadRegs x) := fun _ => by simp [encode, decodeWord, decodeF]

theorem RoundTrip.unimpl0 (nnn : Addr12) : RoundTrip.Statement (.unimpl0 nnn) := by
  intro h
  have e1 : (0x0#4 ++ nnn : Word) ≠ 0x00E0#16 := fun e => by
    have : nnn = 0x0E0#12 := by have := congrArg nnnOf e; rwa [nnnOf_nnn] at this
    simp [Instr.wf, this] at h
  have e2 : (0x0#4 ++ nnn : Word) ≠ 0x00EE#16 := fun e => by
    have : nnn = 0x0EE#12 := by have := congrArg nnnOf e; rwa [nnnOf_nnn] at this
    simp [Instr.wf, this] at h
  simp [encode, decodeWord, decode0, e1, e2]

theorem RoundTrip.unimpl8 (x : Nibble) (y : Nibble) (n : Nibble) : RoundTrip.Statement (.unimpl8 x y n) := by
  intro h
  simp [Instr.wf, assigned8] at h
  simp [encode, decodeWord, decode8, h]

theorem RoundTrip.unimplE (x : Nibble) (nn : Byte) : RoundTrip.Statement (.unimplE x nn) := by
  intro h
  simp [Instr.wf, assignedE] at h
  simp [encode, decodeWord, decodeE, h]

theorem RoundTrip.unimplF (x : Nibble) (nn : Byte) : RoundTrip.Statement (.unimplF x nn) := by
  intro h
  simp [Instr.wf, assignedF] at h
  simp [encode, decodeWord, decodeF, h]

end Sys2Proof.Laws
end

