-- ==== Sys2Proof/Tests/Slice0.lean ====
section
/-! SUPPORT. Tests. Expected results are those of spec/95_test_vectors.md (each test names its vector), of the
examples in the rules, or worked out by hand from the rule named. Then, for each statement that has hypotheses,
witnesses that meet them, at the edges of their ranges. -/

namespace Sys2Proof.Tests

open Sys2Proof Sys2Proof.Machine

/-! ### Helpers -/

/-- The state of a completing outcome. -/
def nx : Host.Outcome State Fault Refusal → Option State
  | .next t => some t
  | .fault _ => none
  | .refused _ => none

/-- The cause and the state of a fatal outcome. -/
def ft : Host.Outcome State Fault Refusal → Option (FatalCause × State)
  | .fault (.fatal c t) => some (c, t)
  | .fault (.halted _) => none
  | .fault (.stoppedByFatal _) => none
  | .next _ => none
  | .refused _ => none

/-- The keys whose codes are listed are down. -/
def down (ks : List Nat) : BitVec 256 := ks.foldl (fun b k => b ||| BitVec.ofNat 256 (2 ^ k)) 0#256

/-- One input: no tick, these keys, this random byte, this choice. -/
def input (ks : List Nat) (rnd : Byte) (pick : Nat) : Input := ⟨0, ⟨down ks, rnd, pick⟩⟩

/-- Reset, with PC and one quiet input. -/
def at_ (pc : Word) : State := { State.reset with pc := pc, inputs := [input [] 0x00#8 0] }

/-- One step with the word placed at PC. -/
def run (s : State) (w : Nat) : Option State := nx (step (s.withFetchWord 16 w))

/-- The same, for a step that ends in a fatal condition. -/
def runFatal (s : State) (w : Nat) : Option (FatalCause × State) := ft (step (s.withFetchWord 16 w))

/-- Registers set one after another. -/
def regs (s : State) (l : List (Nibble × Byte)) : State := l.foldl (fun s p => s.setV p.1 p.2) s

/-- The bytes stored from an address. -/
def bytes (s : State) (a : Nat) (l : List Byte) : State := s.store a l

/-- `n` bytes read from an address. -/
def dump (s : State) (a n : Nat) : List Byte := (List.range n).map fun k => Memory.read s.mem (a + k)

/-- The pixels that are set, row by row, as (row, column). -/
def lit (s : State) : List (Nat × Nat) :=
  (List.finRange 32).flatMap fun r => ((List.finRange 64).filter fun c => s.pixel r c).map fun c => (r.val, c.val)

/-- The frame buffer with these pixels set. -/
def paint (s : State) (l : List (Fin 32 × Fin 64)) : State :=
  l.foldl (fun s p => s.setFb (s.fb.set p.1.val (s.fb[p.1.val] ||| (0x8000000000000000#64 >>> p.2.val)))) s

/-! ### WellFormed: each check refuses an ill-formed term (30_encoding.md R81) -/

theorem test_wf_refuses_cls_word_as_unimplemented : (Instr.unimpl0 0x0E0#12).wf = false := by decide
theorem test_wf_refuses_ret_word_as_unimplemented : (Instr.unimpl0 0x0EE#12).wf = false := by decide
theorem test_wf_refuses_assigned_nibbles :
    ∀ n ∈ [0x0#4, 0x1#4, 0x2#4, 0x3#4, 0x4#4, 0x5#4, 0x6#4, 0x7#4, 0xE#4], (Instr.unimpl8 1#4 2#4 n).wf = false := by
  decide
theorem test_wf_refuses_assigned_key_bytes : ∀ b ∈ [0x9E#8, 0xA1#8], (Instr.unimplE 3#4 b).wf = false := by decide
theorem test_wf_refuses_assigned_misc_bytes :
    ∀ b ∈ [0x07#8, 0x0A#8, 0x15#8, 0x18#8, 0x1E#8, 0x29#8, 0x33#8, 0x55#8, 0x65#8],
      (Instr.unimplF 3#4 b).wf = false := by decide
theorem test_wf_admits_the_others :
    (Instr.unimpl0 0x000#12).wf = true ∧ (Instr.unimpl8 1#4 2#4 0xF#4).wf = true ∧
    (Instr.unimplE 0#4 0x00#8).wf = true ∧ (Instr.unimplF 1#4 0xFF#8).wf = true := by decide

/-! ### Decoding: every constructor, from a word written out from the opcode map (30_encoding.md R80) -/

theorem test_decode_families_0_to_2 :
    decode [0x00#8, 0xE0#8] = .ok (.cls, []) ∧ decode [0x00#8, 0xEE#8] = .ok (.ret, []) ∧
    decode [0x1A#8, 0xBC#8] = .ok (.jp 0xABC#12, []) ∧ decode [0x22#8, 0x04#8] = .ok (.call 0x204#12, []) ∧
    decode [0x0F#8, 0xFF#8] = .ok (.unimpl0 0xFFF#12, []) := ⟨rfl, rfl, rfl, rfl, rfl⟩

theorem test_decode_families_3_to_7 :
    decode [0x31#8, 0x00#8] = .ok (.seImm 1#4 0x00#8, []) ∧ decode [0x40#8, 0x06#8] = .ok (.sneImm 0#4 0x06#8, []) ∧
    decode [0x52#8, 0x31#8] = .ok (.seReg 2#4 3#4 1#4, []) ∧ decode [0x60#8, 0x05#8] = .ok (.ldImm 0#4 0x05#8, []) ∧
    decode [0x71#8, 0xFF#8] = .ok (.addImm 1#4 0xFF#8, []) := ⟨rfl, rfl, rfl, rfl, rfl⟩

theorem test_decode_family_8 :
    decode [0x8A#8, 0xF0#8] = .ok (.ldReg 10#4 15#4, []) ∧ decode [0x80#8, 0x11#8] = .ok (.orReg 0#4 1#4, []) ∧
    decode [0x80#8, 0x12#8] = .ok (.andReg 0#4 1#4, []) ∧ decode [0x83#8, 0x33#8] = .ok (.xorReg 3#4 3#4, []) ∧
    decode [0x8A#8, 0xB4#8] = .ok (.addReg 10#4 11#4, []) ∧ decode [0x80#8, 0x15#8] = .ok (.subReg 0#4 1#4, []) ∧
    decode [0x82#8, 0x76#8] = .ok (.shr 2#4 7#4, []) ∧ decode [0x80#8, 0x17#8] = .ok (.subnReg 0#4 1#4, []) ∧
    decode [0x82#8, 0x2E#8] = .ok (.shl 2#4 2#4, []) ∧ decode [0x81#8, 0x2F#8] = .ok (.unimpl8 1#4 2#4 15#4, []) :=
  ⟨rfl, rfl, rfl, rfl, rfl, rfl, rfl, rfl, rfl, rfl⟩

theorem test_decode_families_9_to_D :
    decode [0x92#8, 0x30#8] = .ok (.sneReg 2#4 3#4 0#4, []) ∧ decode [0xA3#8, 0x00#8] = .ok (.ldI 0x300#12, []) ∧
    decode [0xB3#8, 0x00#8] = .ok (.jpV0 0x300#12, []) ∧ decode [0xC1#8, 0x0F#8] = .ok (.rnd 1#4 0x0F#8, []) ∧
    decode [0xD1#8, 0x2F#8] = .ok (.drw 1#4 2#4 15#4, []) := ⟨rfl, rfl, rfl, rfl, rfl⟩

theorem test_decode_family_E :
    decode [0xE3#8, 0x9E#8] = .ok (.skp 3#4, []) ∧ decode [0xE3#8, 0xA1#8] = .ok (.sknp 3#4, []) ∧
    decode [0xE1#8, 0x9F#8] = .ok (.unimplE 1#4 0x9F#8, []) := ⟨rfl, rfl, rfl⟩

theorem test_decode_family_F :
    decode [0xF2#8, 0x07#8] = .ok (.ldFromDt 2#4, []) ∧ decode [0xF4#8, 0x0A#8] = .ok (.ldKey 4#4, []) ∧
    decode [0xF2#8, 0x15#8] = .ok (.ldDt 2#4, []) ∧ decode [0xF5#8, 0x18#8] = .ok (.ldSt 5#4, []) ∧
    decode [0xF1#8, 0x1E#8] = .ok (.addI 1#4, []) ∧ decode [0xF0#8, 0x29#8] = .ok (.ldFont 0#4, []) ∧
    decode [0xF2#8, 0x33#8] = .ok (.ldBcd 2#4, []) ∧ decode [0xF2#8, 0x55#8] = .ok (.storeRegs 2#4, []) ∧
    decode [0xF2#8, 0x65#8] = .ok (.loadRegs 2#4, []) ∧ decode [0xF1#8, 0xFF#8] = .ok (.unimplF 1#4 0xFF#8, []) :=
  ⟨rfl, rfl, rfl, rfl, rfl, rfl, rfl, rfl, rfl, rfl⟩

/-- Too few bytes are refused by name; the bytes after an instruction are left (R70). -/
theorem test_decode_edges :
    decode [0x60#8] = .error .truncated ∧ decode [] = .error .truncated ∧
    decode [0x60#8, 0x05#8, 0xAA#8] = .ok (.ldImm 0#4 0x05#8, [0xAA#8]) := ⟨rfl, rfl, rfl⟩

/-- S1's instances of the fields (R72). -/
theorem test_fields :
    (opOf 0xD12F#16, xOf 0xD12F#16, yOf 0xD12F#16, nOf 0xD12F#16) = (0xD#4, 1#4, 2#4, 15#4) ∧
    (nnOf 0x6005#16, nnnOf 0xD12F#16) = (0x05#8, 0x12F#12) := by decide

theorem test_decodeTableWord :
    decodeTableWord 16 0x8276 = some (.shr 2#4 7#4) ∧ decodeTableWord 16 0xF1FF = some (.unimplF 1#4 0xFF#8) := by
  decide

/-! ### Families 0x0, 0x1, 0x2 -/

theorem test_cls_T0_1 : (run (paint (at_ 0x200#16) [(3, 4)]) 0x00E0).map
    (fun t => (lit t, t.pc, t.events)) = some ([], 0x202#16, [.displayClear]) := by decide
theorem test_ret_T0_4 : (run { bytes (at_ 0x400#16) 0xEA0 [0x02#8, 0x02#8, 0x03#8, 0x10#8] with sp := 2 } 0x00EE).map
    (fun t => (t.sp, t.pc, dump t 0xEA0 4)) = some (1, 0x310#16, [0x02#8, 0x02#8, 0x03#8, 0x10#8]) := by decide
theorem test_ret_underflow_T0_3 : (runFatal (at_ 0x200#16) 0x00EE).map
    (fun p => (p.1, p.2.fatal.map FatalCause.code, p.2.pc, p.2.events)) =
    some (.stackUnderflow, some 2, 0x200#16, [.fatal .stackUnderflow 0x200#16 0x00EE#16]) := by decide
theorem test_unimpl0_does_not_jump_T0_8 : (run (at_ 0x200#16) 0x0FFF).map (fun t => (t.pc, t.events)) =
    some (0x202#16, [.diagUnimplemented 0x200#16 0x0FFF#16]) := by decide
theorem test_unimpl0_zero_word_does_not_clear_T0_6 : (run (paint (at_ 0x200#16) [(3, 4)]) 0x0000).map
    (fun t => (lit t, t.pc)) = some ([(3, 4)], 0x202#16) := by decide
theorem test_jp_T1_1 : (run (at_ 0x200#16) 0x1ABC).map (·.pc) = some 0xABC#16 := by decide
theorem test_call_T2_2 : (run { at_ 0xABC#16 with sp := 23 } 0x2300).map
    (fun t => (dump t 0xECE 2, t.sp, t.pc)) = some ([0x0A#8, 0xBE#8], 24, 0x300#16) := by decide
theorem test_call_overflow_T2_3 : (runFatal { at_ 0x200#16 with sp := 24 } 0x2300).map
    (fun p => (p.1, p.2.sp, p.2.pc, dump p.2 0xED0 2, p.2.events)) =
    some (.stackOverflow, 24, 0x200#16, [0x00#8, 0x00#8], [.fatal .stackOverflow 0x200#16 0x2300#16]) := by decide

/-! ### Families 0x3 to 0x7 -/

theorem test_seImm_T3_1_T3_2 : (run (at_ 0x208#16) 0x3100).map (·.pc) = some 0x20C#16 ∧
    (run (regs (at_ 0x208#16) [(1, 0x01#8)]) 0x3100).map (·.pc) = some 0x20A#16 := by decide
theorem test_sneImm_T4_1_T4_2 : (run (regs (at_ 0x200#16) [(0, 0x05#8)]) 0x4006).map (·.pc) = some 0x204#16 ∧
    (run (regs (at_ 0x200#16) [(0, 0x05#8)]) 0x4005).map (·.pc) = some 0x202#16 := by decide
theorem test_seReg_T5_2_T5_4 : (run (regs (at_ 0x300#16) [(2, 0x7F#8), (3, 0x80#8)]) 0x5230).map (·.pc) = some 0x302#16 ∧
    (run (regs (at_ 0x300#16) [(2, 1#8), (3, 1#8)]) 0x5231).map (·.pc) = some 0x304#16 := by decide
theorem test_ldImm_T6_1 : (run (at_ 0x200#16) 0x6005).map (fun t => (t.getV 0, t.pc)) = some (0x05#8, 0x202#16) := by
  decide
theorem test_addImm_T7_2 : (run (regs (at_ 0x200#16) [(1, 0xFF#8)]) 0x7102).map (fun t => (t.getV 1, t.getV 15)) =
    some (0x01#8, 0x00#8) := by decide

/-! ### Family 0x8 -/

/-- V0 and VF after `80<1><n>` with `a` in V0, `b` in V1, and 0x77 in VF. -/
def alu (n : Nat) (a b : Byte) : Option (Byte × Byte) :=
  (run (regs (at_ 0x200#16) [(0, a), (1, b), (15, 0x77#8)]) (0x8010 + n)).map fun t => (t.getV 0, t.getV 15)

theorem test_ldReg_T8_1 : alu 0 0x12 0x34 = some (0x34#8, 0x77#8) := by decide
theorem test_orReg_T8_2 : alu 1 0xF0 0x0F = some (0xFF#8, 0x77#8) := by decide
theorem test_andReg_T8_3 : alu 2 0xF0 0x3C = some (0x30#8, 0x77#8) := by decide
theorem test_xorReg_T8_4 : alu 3 0xF0 0x3C = some (0xCC#8, 0x77#8) := by decide
theorem test_addReg_T8_5_T8_8 : alu 4 0xC8 0x64 = some (0x2C#8, 1#8) ∧ alu 4 0x80 0x7F = some (0xFF#8, 0#8) := by decide
theorem test_addReg_flag_wins_T8_37 : (run (regs (at_ 0x200#16) [(15, 0xFF#8), (1, 0x02#8)]) 0x8F14).map (·.getV 15) =
    some 1#8 := by decide
theorem test_subReg_T8_12_T8_13 : alu 5 0x05 0x07 = some (0xFE#8, 0#8) ∧ alu 5 0x05 0x05 = some (0#8, 0#8) := by decide
theorem test_subReg_T8_11 : alu 5 0x07 0x05 = some (0x02#8, 1#8) := by decide
theorem test_shr_T8_45 : (run (regs (at_ 0x200#16) [(2, 0x05#8), (7, 0xAA#8)]) 0x8276).map
    (fun t => (t.getV 2, t.getV 15, t.getV 7)) = some (0x02#8, 1#8, 0xAA#8) := by decide
theorem test_shr_T8_21 : alu 6 0x80 0xFF = some (0x40#8, 0#8) := by decide
theorem test_subnReg_T8_22_T8_24 : alu 7 0x05 0x07 = some (0x02#8, 1#8) ∧ alu 7 0x05 0x05 = some (0#8, 0#8) := by decide
theorem test_shl_T8_27_T8_29 : alu 14 0x81 0x00 = some (0x02#8, 1#8) ∧ alu 14 0x7F 0x00 = some (0xFE#8, 0#8) := by decide
theorem test_unimpl8_T8_44 : (run (regs (at_ 0x200#16) [(1, 0x12#8), (2, 0x34#8)]) 0x812F).map
    (fun t => (t.getV 1, t.getV 15, t.pc, t.events)) =
    some (0x12#8, 0x00#8, 0x202#16, [.diagUnimplemented 0x200#16 0x812F#16]) := by decide

/-! ### Families 0x9 to 0xC -/

theorem test_sneReg_T9_1_T9_3 : (run (regs (at_ 0x300#16) [(2, 1#8), (3, 2#8)]) 0x9230).map (·.pc) = some 0x304#16 ∧
    (run (at_ 0x300#16) 0x9440).map (·.pc) = some 0x302#16 := by decide
theorem test_ldI_TA_1 : (run { at_ 0x200#16 with i := 0xFFFF#16 } 0xA300).map (·.i) = some 0x300#16 := by decide
theorem test_jpV0_TB_2 : (run (regs (at_ 0x200#16) [(0, 0xFF#8)]) 0xBFFF).map (·.pc) = some 0x10FE#16 := by decide
theorem test_rnd_TC_1 : (run { at_ 0x200#16 with inputs := [input [] 0xA7#8 0] } 0xC10F).map (·.getV 1) =
    some 0x07#8 := by decide

/-! ### Family 0xD -/

/-- The memory of section 2.5 of the vectors. -/
def gallery (i : Word) (x y : Byte) : State :=
  { bytes (bytes (regs (at_ 0x200#16) [(1, x), (2, y)]) 0x300 [0x80#8, 0xFF#8, 0x3C#8]) 0xFFF [0xC0#8] with i := i }

/-- TD.1: glyph 7, as rows: columns 5 to 8, then 8, 7, 6, 6. TD.3: clipped at both edges. TD.6: a collision. -/
theorem test_drw_TD_1_TD_3_TD_6 :
    (run (gallery 0x023#16 5#8 10#8) 0xD125).map (fun t => (lit t, t.getV 15, t.pc)) =
      some ([(10, 5), (10, 6), (10, 7), (10, 8), (11, 8), (12, 7), (13, 6), (14, 6)], 0#8, 0x202#16) ∧
    (run (gallery 0x300#16 255#8 255#8) 0xD123).map (fun t => (lit t, t.getV 15)) = some ([(31, 63)], 0#8) ∧
    (run (paint (gallery 0x300#16 0#8 0#8) [(0, 0)]) 0xD121).map (fun t => (lit t, t.getV 15)) =
      some ([], 1#8) := by decide
/-- TD.9: a sprite row at 0x1000. TD.10: the same row clipped, hence not read. -/
theorem test_drw_bounds_TD_9_TD_10 :
    (runFatal (gallery 0xFFF#16 0#8 0#8) 0xD122).map (fun p => (p.1, lit p.2, p.2.pc)) =
      some (.memOutOfBounds, [], 0x200#16) ∧
    (run (gallery 0xFFF#16 0#8 31#8) 0xD122).map (fun t => (lit t, t.getV 15)) =
      some ([(31, 0), (31, 1)], 0#8) := by decide

/-! ### Family 0xE -/

/-- PC after a key skip at 0x210 on the key 10. -/
def keySkip (ks : List Nat) (w : Nat) : Option Word :=
  (run (regs { at_ 0x210#16 with inputs := [input ks 0#8 0] } [(3, 0x0A#8)]) w).map (·.pc)

theorem test_skp_TE_1_TE_2 : keySkip [10] 0xE39E = some 0x214#16 ∧ keySkip [9] 0xE39E = some 0x212#16 := by decide
theorem test_sknp_TE_3_TE_4 : keySkip [10] 0xE3A1 = some 0x212#16 ∧ keySkip [9] 0xE3A1 = some 0x214#16 := by decide
/-- TE.5: a code above 15 may be answered either way. -/
theorem test_skp_code_26_TE_5 :
    (run (regs { at_ 0x210#16 with inputs := [input [26] 0#8 0] } [(3, 0x1A#8)]) 0xE39E).map (·.pc) = some 0x214#16 ∧
    (run (regs (at_ 0x210#16) [(3, 0x1A#8)]) 0xE39E).map (·.pc) = some 0x212#16 := by decide
theorem test_unimplE_TE_7 : (run (at_ 0x200#16) 0xE19F).map (fun t => (t.pc, t.events)) =
    some (0x202#16, [.diagUnimplemented 0x200#16 0xE19F#16]) := by decide

/-! ### Family 0xF -/

theorem test_ldFromDt_TF_1 : (run { at_ 0x200#16 with dt := 0x3C#8 } 0xF207).map (·.getV 2) = some 0x3C#8 := by decide
/-- R209: the ticks come before the step. -/
theorem test_ldFromDt_after_two_ticks :
    (run { at_ 0x200#16 with dt := 0x3C#8, inputs := [⟨2, ⟨0#256, 0#8, 0⟩⟩] } 0xF207).map (·.getV 2) =
    some 0x3A#8 := by decide
theorem test_ldDt_TF_2 : (run (regs (at_ 0x200#16) [(2, 0x3C#8)]) 0xF215).map (·.dt) = some 0x3C#8 := by decide
theorem test_ldSt_TF_3 : (run (regs (at_ 0x200#16) [(5, 0x08#8)]) 0xF518).map (·.st) = some 0x08#8 := by decide
theorem test_ldKey_holds_TF_4 : (run (regs (at_ 0x220#16) [(4, 0x55#8)]) 0xF40A).map
    (fun t => (t.getV 4, t.pc, t.events)) = some (0x55#8, 0x220#16, []) := by decide
/-- TF.6: either of the two keys down may be reported. -/
theorem test_ldKey_TF_6 :
    (run { at_ 0x220#16 with inputs := [input [2, 9] 0#8 0] } 0xF40A).map (fun t => (t.getV 4, t.pc)) =
      some (0x02#8, 0x222#16) ∧
    (run { at_ 0x220#16 with inputs := [input [2, 9] 0#8 1] } 0xF40A).map (fun t => (t.getV 4, t.pc)) =
      some (0x09#8, 0x222#16) := by decide
theorem test_addI_TF_8_TF_9 :
    (run (regs { at_ 0x200#16 with i := 0xFFE#16 } [(1, 1#8)]) 0xF11E).map (fun t => (t.i, t.getV 15)) =
      some (0xFFF#16, 0#8) ∧
    (run (regs { at_ 0x200#16 with i := 0xFFF#16 } [(1, 1#8)]) 0xF11E).map (fun t => (t.i, t.getV 15)) =
      some (0x1000#16, 1#8) := by decide
theorem test_addI_wraps_TF_12 :
    (run (regs { at_ 0x200#16 with i := 0xFFFF#16 } [(1, 1#8)]) 0xF11E).map (fun t => (t.i, t.getV 15)) =
      some (0x0000#16, 1#8) := by decide
theorem test_ldFont_TF_17_TF_18 : (run (regs (at_ 0x200#16) [(0, 0x0F#8)]) 0xF029).map (·.i) = some 0x04B#16 ∧
    (run (regs (at_ 0x200#16) [(0, 0x1A#8)]) 0xF029).map (·.i) = some 0x032#16 := by decide
theorem test_ldBcd_TF_19 : (run (regs { at_ 0x200#16 with i := 0x300#16 } [(2, 254#8)]) 0xF233).map
    (fun t => (dump t 0x300 4, t.i)) = some ([2#8, 5#8, 4#8, 0#8], 0x300#16) := by decide
theorem test_ldBcd_out_of_bounds_TF_28 : (runFatal (regs { at_ 0x200#16 with i := 0xFFE#16 } [(2, 254#8)]) 0xF233).map
    (fun p => (p.1, dump p.2 0xFFE 2, p.2.pc)) = some (.memOutOfBounds, [0#8, 0#8], 0x200#16) := by decide
theorem test_storeRegs_TF_29 :
    (run (regs { at_ 0x200#16 with i := 0x400#16 } [(0, 0x11#8), (1, 0x22#8), (2, 0x33#8), (3, 0x44#8)]) 0xF255).map
    (fun t => (dump t 0x400 4, t.i)) = some ([0x11#8, 0x22#8, 0x33#8, 0x00#8], 0x400#16) := by decide
theorem test_storeRegs_out_of_bounds_TF_32 : (runFatal (regs { at_ 0x200#16 with i := 0xFF1#16 } [(0, 1#8)]) 0xFF55).map
    (fun p => (p.1, dump p.2 0xFF1 1)) = some (.memOutOfBounds, [0#8]) := by decide
theorem test_loadRegs_TF_34 :
    (run (regs { bytes (at_ 0x200#16) 0x300 [2#8, 5#8, 4#8, 7#8] with i := 0x300#16 } [(3, 0x99#8)]) 0xF265).map
    (fun t => (t.getV 0, t.getV 1, t.getV 2, t.getV 3, t.i)) = some (2#8, 5#8, 4#8, 0x99#8, 0x300#16) := by decide
theorem test_loadRegs_out_of_bounds_TF_36 : (runFatal (regs { at_ 0x200#16 with i := 0x1000#16 } [(0, 5#8)]) 0xF065).map
    (fun p => (p.1, p.2.getV 0)) = some (.memOutOfBounds, 5#8) := by decide
theorem test_unimplF_TF_37 : (run (at_ 0x200#16) 0xF1FF).map (fun t => (t.pc, t.events)) =
    some (0x202#16, [.diagUnimplemented 0x200#16 0xF1FF#16]) := by decide

/-! ### Host, timers, reset, the end of a run -/

theorem test_tick_TT_1_TT_2 :
    (nx (hostOp .tick { State.reset with dt := 3#8, st := 1#8 })).map (fun t => (t.dt, t.st)) = some (2#8, 0#8) ∧
    (nx (hostOp .tick State.reset)).map (fun t => (t.dt, t.st)) = some (0#8, 0#8) := by decide
theorem test_reset_memory_TR_2 :
    dump State.reset 0x000 5 = [0xF0#8, 0x90#8, 0x90#8, 0x90#8, 0xF0#8] ∧
    dump State.reset 0x04B 6 = [0xF0#8, 0x80#8, 0xF0#8, 0x80#8, 0x80#8, 0x00#8] ∧
    dump State.reset 0x200 1 = [0x00#8] ∧ State.reset.pc = 0x200#16 := by decide
/-- S7: Load, then the state the two bytes give. -/
theorem test_load_S7 : (nx (hostOp (.load [0x60#8, 0x05#8]) State.reset)).map
    (fun t => (dump t 0x200 3, t.plen.val, t.pc, t.stepEnabled)) =
    some ([0x60#8, 0x05#8, 0x00#8], 2, 0x200#16, true) := by decide
/-- TL.3, R246: a run of no steps. -/
theorem test_load_nothing_TL_3 : (nx (hostOp (.load []) State.reset)).map (·.stepEnabled) = some false := by decide
/-- U13. -/
theorem test_load_over_a_used_machine_is_refused :
    hostOp (.load []) { State.reset with i := 1#16 } = .refused .loadOutsideReset := rfl
/-- S7's end: PC past the two loaded bytes. -/
theorem test_halt_S7 : step { State.reset with pc := 0x202#16, plen := 2 } =
    .fault (.halted { State.reset with pc := 0x202#16, plen := 2 }) := rfl
/-- Memory keeps one form: writing what the reset contents are leaves nothing listed (R36). -/
theorem test_memory_canonical :
    Memory.write (Memory.write [] 0x300 0x05#8) 0x300 0x00#8 = [] ∧ Memory.write [] 0x000 0xF0#8 = [] ∧
    Memory.write (Memory.write [] 0x301 1#8) 0x300 2#8 = [(0x300, 2#8), (0x301, 1#8)] := by decide

/-! ### Witnesses: hypotheses of the statements, met by a concrete state -/

theorem witness_DecodeOfEncodeIsTheInstruction : (Instr.unimpl8 15#4 15#4 15#4).wf = true ∧ Instr.cls.wf = true := by
  decide

/-- A loaded program of full length, PC at its last byte. -/
def lastByte : State := { at_ 0xE9F#16 with plen := 3232 }

theorem witness_StepRunsTheDecodedInstruction :
    lastByte.fatal = none ∧ 0x200 ≤ lastByte.pc.toNat ∧ lastByte.pc.toNat < 0x200 + lastByte.plen.val ∧
    decode [Memory.read lastByte.mem lastByte.pc.toNat, Memory.read lastByte.mem (lastByte.pc.toNat + 1)] =
      .ok (.unimpl0 0x000#12, []) := by decide

theorem witness_StepIsStuckWhereNotEnabled :
    ({ State.reset with fatal := some .stackOverflow } : State).fatal ≠ none ∧
    (at_ 0x1FF#16).fatal = none ∧ (at_ 0x1FF#16).pc.toNat < 0x200 ∧
    ({ lastByte with pc := 0xEA0#16 } : State).fatal = none ∧
    0x200 + ({ lastByte with pc := 0xEA0#16 } : State).plen.val ≤ ({ lastByte with pc := 0xEA0#16 } : State).pc.toNat := by
  decide

theorem witness_EnabledPcNeverWraps : lastByte.stepEnabled = true := by decide

theorem witness_EveryInstructionCompletesUnlessItRaises :
    raises .ret { State.reset with sp := 1 } = none ∧ raises (.call 0#12) { State.reset with sp := 23 } = none ∧
    raises (.drw 1#4 2#4 2#4) (gallery 0xFFE#16 0#8 0#8) = none ∧
    raises (.drw 1#4 2#4 0#4) (gallery 0xFFFF#16 0#8 0#8) = none ∧
    raises (.ldBcd 0#4) { State.reset with i := 0xFFD#16 } = none ∧
    raises (.storeRegs 15#4) { State.reset with i := 0xFF0#16 } = none ∧
    raises (.loadRegs 15#4) { State.reset with i := 0xFF0#16 } = none ∧ raises .cls State.reset = none := by decide

theorem witness_FatalConditionsArePrecise :
    raises .ret State.reset = some .stackUnderflow ∧
    raises (.call 0#12) { State.reset with sp := 24 } = some .stackOverflow ∧
    raises (.drw 1#4 2#4 2#4) (gallery 0xFFF#16 0#8 0#8) = some .memOutOfBounds ∧
    raises (.ldBcd 0#4) { State.reset with i := 0xFFE#16 } = some .memOutOfBounds ∧
    raises (.storeRegs 15#4) { State.reset with i := 0xFF1#16 } = some .memOutOfBounds ∧
    raises (.loadRegs 0#4) { State.reset with i := 0x1000#16 } = some .memOutOfBounds := by decide

theorem witness_InstructionsWriteOnlyTheirRow : (nx (exec .cls State.reset)).isSome = true := by decide

theorem witness_EveryInstructionLeavesPcAsItsClassSays :
    (nx (exec (.jp 0x300#12) State.reset)).isSome = true ∧
    (ft (exec .ret State.reset)).map (·.1) = some .stackUnderflow := by decide

theorem witness_FlagIsZeroOrOneAndOtherwiseUntouched :
    (nx (exec (.shl 15#4 0#4) State.reset)).isSome = true ∧ writesFlag (.shl 15#4 0#4) = true ∧
    (nx (exec (.ldImm 14#4 0xFF#8) State.reset)).isSome = true ∧ writesFlag (.ldImm 14#4 0xFF#8) = false ∧
    15#4 ∉ (accessMatrix (.ldImm 14#4 0xFF#8) State.reset).regs := by decide

theorem witness_OnlyFourInstructionsAskTheOracles : asksEnv (.unimplE 0#4 0#8) = false ∧ asksEnv .ret = false := by decide

theorem witness_NoInstructionReadsTheSoundTimer : ∀ x, Instr.ldFromDt 0#4 ≠ .ldSt x := by decide

theorem witness_NoStepChangesTheLoadedLength :
    (nx (step lastByte)).isSome = true ∧
    (ft (step ((at_ 0x200#16).withFetchWord 16 0x00EE))).map (·.1) = some .stackUnderflow := by decide

theorem witness_StepKeepsTheInvariant :
    Inv (bytes lastByte 0xFFF [0xC0#8]) ∧ (nx (step (bytes lastByte 0xFFF [0xC0#8]))).isSome = true :=
  ⟨⟨by decide, rfl, by simp [bytes, lastByte, at_, State.store, State.reset]⟩, by decide⟩

/-- Reset, Load of one word, one tick: a state of a run. -/
theorem witness_EveryReachableStateMeetsTheInvariant :
    Reachable (State.reset.hostReset.placeProgram [0x12#8, 0x00#8]).timerTick :=
  .ticked _ (.loaded State.reset _ [0x12#8, 0x00#8] rfl)

/-- The same run goes on, as the first of the three ways. -/
theorem witness_EveryRunGoesOnHaltsOrIsFatal :
    Reachable (State.reset.hostReset.placeProgram [0x12#8, 0x00#8]) ∧
    Reachable (State.reset.hostReset.placeProgram []) ∧
    step (State.reset.hostReset.placeProgram []) = .fault (.halted (State.reset.hostReset.placeProgram [])) :=
  ⟨.loaded State.reset _ [0x12#8, 0x00#8] rfl, .loaded State.reset _ [] rfl, rfl⟩

theorem witness_CanonicalMemoriesThatReadAlikeAreEqual :
    Memory.wf [(0x000, 0x01#8), (0xFFF, 0x80#8)] ∧
    ∀ a < 4096, Memory.read [(0x000, 0x01#8), (0xFFF, 0x80#8)] a = Memory.read [(0x000, 0x01#8), (0xFFF, 0x80#8)] a :=
  ⟨by decide, fun _ _ => rfl⟩

theorem witness_RetPopsTheReturnAddress :
    ({ State.reset with sp := 1 } : State).sp.val = 0 + 1 ∧ ({ State.reset with sp := 24 } : State).sp.val = 23 + 1 ∧
    State.reset.sp.val = 0 := by decide

theorem witness_CallPushesTheReturnAddress :
    ({ State.reset with sp := 23 } : State).sp.val < 24 ∧ ({ State.reset with sp := 24 } : State).sp.val = 24 := by decide

theorem witness_PushedAddressesPopInReverse :
    State.reset.sp.val + (List.replicate 24 0x202#16).length ≤ 24 ∧
    24 < State.reset.sp.val + (List.replicate 25 0x202#16).length ∧ State.reset.sp.val = 0 := by decide

/-- For the three statements of the flag-writing forms of family 0x8: a destination other than VF. -/
theorem witness_FlagWritingForms : (0#4 : Nibble) ≠ 15#4 := by decide

theorem witness_DrawTogglesPixelsAndReportsCollision :
    (0xFFF + min (2#4 : Nibble).toNat (32 - ((gallery 0xFFF#16 0#8 31#8).getV 2#4).toNat % 32) - 1 < 4096) ∧
    min (0#4 : Nibble).toNat (32 - ((gallery 0xFFF#16 0#8 0#8).getV 2#4).toNat % 32) = 0 ∧
    (1 ≤ min (2#4 : Nibble).toNat (32 - ((gallery 0xFFF#16 0#8 30#8).getV 2#4).toNat % 32) ∧
      4096 ≤ 0xFFF + min (2#4 : Nibble).toNat (32 - ((gallery 0xFFF#16 0#8 30#8).getV 2#4).toNat % 32) - 1) := by decide

/-- TD.13: the second draw starts from what the first one left. -/
theorem witness_DrawingTwiceRestoresTheFrameBuffer :
    ∃ t, exec (.drw 1#4 2#4 1#4) (gallery 0x300#16 3#8 2#8) = .next t ∧ t.fb = t.fb ∧ t.i = 0x300#16 ∧
      (t.getV 1#4).toNat % 64 = ((gallery 0x300#16 3#8 2#8).getV 1#4).toNat % 64 ∧
      (t.getV 2#4).toNat % 32 = ((gallery 0x300#16 3#8 2#8).getV 2#4).toNat % 32 ∧
      ∀ k < 1, Memory.read t.mem (0x300 + k) = Memory.read (gallery 0x300#16 3#8 2#8).mem (0x300 + k) :=
  ⟨_, rfl, rfl, by decide, by decide, by decide, by decide⟩

theorem witness_KeyWaitHoldsOrReportsAPressedKey :
    (∀ k < 16, (input [16] 0#8 0).env.keys.getLsbD k = false) ∧
    (∃ k < 16, (input [15] 0#8 0).env.keys.getLsbD k = true) ∧
    (input [0, 15] 0#8 0).env.keys.getLsbD 15 = true :=
  ⟨by decide, ⟨15, by decide, by decide⟩, by decide⟩

theorem witness_DecimalDigitsStored : (0xFFD#16 : Word).toNat + 2 < 4096 ∧ 4096 ≤ (0xFFE#16 : Word).toNat + 2 := by decide

theorem witness_RegisterBlockStored :
    (0xFF0#16 : Word).toNat + (15#4 : Nibble).toNat < 4096 ∧ 4096 ≤ (0xFF1#16 : Word).toNat + (15#4 : Nibble).toNat := by
  decide

theorem witness_RegisterBlockLoaded :
    (0xFFF#16 : Word).toNat + (0#4 : Nibble).toNat < 4096 ∧ 4096 ≤ (0x1000#16 : Word).toNat + (0#4 : Nibble).toNat ∧
    (0#4 : Nibble).toNat ≤ (0#4 : Nibble).toNat ∧ (0#4 : Nibble).toNat < (15#4 : Nibble).toNat := by decide

theorem witness_StoredBlockLoadsBack :
    ∃ t, exec (.storeRegs 15#4) { State.reset with i := 0xFF0#16 } = .next t ∧ State.mem t = t.mem ∧ t.i = t.i :=
  ⟨_, rfl, rfl, rfl⟩

/-- FX55 and FX33 that store over the word after themselves. -/
theorem witness_StoreIsSeenByTheNextFetch :
    (nx (exec (.storeRegs 1#4) { State.reset with i := 0x202#16 })).map (fun t => t.pc.toNat) = some (0x202 + 0) ∧
    (1#4 : Nibble).toNat = (0#4 : Nibble).toNat + 1 ∧ (1#4 : Nibble).toNat ≤ (1#4 : Nibble).toNat ∧
    (nx (exec (.ldBcd 0#4) { State.reset with i := 0x202#16 })).map (fun t => t.pc.toNat) = some 0x202 := by decide

theorem witness_UnimplementedWordsOnlyReport :
    ((0x0FFF#16 : Word).toNat / 4096 = 0x0 ∧ (0x0FFF#16 : Word).toNat ≠ 0x00E0 ∧ (0x0FFF#16 : Word).toNat ≠ 0x00EE) ∧
    ((0x8FFF#16 : Word).toNat / 4096 = 0x8 ∧ (0x8FFF#16 : Word).toNat % 16 ∈ [0x8, 0x9, 0xA, 0xB, 0xC, 0xD, 0xF]) ∧
    ((0xE09F#16 : Word).toNat / 4096 = 0xE ∧ (0xE09F#16 : Word).toNat % 256 ∉ [0x9E, 0xA1]) ∧
    ((0xF066#16 : Word).toNat / 4096 = 0xF ∧
      (0xF066#16 : Word).toNat % 256 ∉ [0x07, 0x0A, 0x15, 0x18, 0x1E, 0x29, 0x33, 0x55, 0x65]) := by decide

theorem witness_LoadPlacesTheProgram :
    (List.replicate 3232 0x00#8).length ≤ 3232 ∧ 3232 < (List.replicate 3233 0x00#8).length := by
  rw [List.length_replicate, List.length_replicate]; decide

theorem witness_FatalCauseStaysUntilReset :
    ({ State.reset with fatal := some .programTooLarge } : State).fatal = some .programTooLarge := rfl

end Sys2Proof.Tests
end

/-! SUPPORT and PROOFS for the statements about the state as a whole (10_state.md): what an instruction that completes
or faults leaves behind, its frame, the elements nothing reads, the canonical memory, Reset. -/

namespace Sys2Proof.Machine

/-! ### The results of the instructions that may stop: one inversion lemma each -/

section Results

variable {s t : State}

/-- A checked operation that completes has passed its check. -/
theorem checked_eq_next {c : Bool} {u : State} {cause : FatalCause} {i : Instr}
    (h : (if c then .next u else raiseFatal cause i s) = Host.Outcome.next t) : c = true ∧ t = u := by
  cases c
  · cases h
  · cases h; exact ⟨rfl, rfl⟩

/-- A checked operation that faults has failed its check, and the fault is the one it raises. -/
theorem checked_eq_fault {c : Bool} {u : State} {cause : FatalCause} {i : Instr} {r : Fault}
    (h : (if c then .next u else raiseFatal cause i s) = Host.Outcome.fault r) :
    c = false ∧ r = .fatal cause (s.latchFatal cause s.pc (encode i)) := by
  cases c
  · cases h; exact ⟨rfl, rfl⟩
  · cases h

theorem exec_ret_eq_next (h : exec .ret s = .next t) :
    ∃ k, ∃ hk : s.sp.val = k + 1,
      t = State.jump { s with sp := ⟨k, by have := s.sp.isLt; omega⟩ }
        (joinBytes (Memory.read s.mem (slotAddr k)) (Memory.read s.mem (slotAddr k + 1))) := by
  simp only [exec, execRet] at h
  split at h
  · next hpop =>
    obtain ⟨k, hk, rfl, rfl⟩ := State.pop_eq_some _ _ _ hpop
    cases h
    exact ⟨k, hk, rfl⟩
  · cases h

theorem exec_call_eq_next {nnn : Addr12} (h : exec (.call nnn) s = .next t) :
    ∃ hlt : s.sp.val < 24,
      t = State.jump { s.store (slotAddr s.sp.val) [hiByte (s.pc + 2#16), loByte (s.pc + 2#16)] with
        sp := ⟨s.sp.val + 1, Nat.succ_lt_succ hlt⟩ } (zext12 nnn) := by
  simp only [exec, execCall] at h
  split at h
  · next hpush =>
    obtain ⟨hlt, rfl⟩ := State.push_eq_some _ _ _ hpush
    cases h
    exact ⟨hlt, rfl⟩
  · cases h

/-- The frame buffer after the draw and whether a pixel was erased (R150, R153). -/
def State.drawn (s : State) (x y n : Nibble) : FrameBuffer × Bool :=
  drawRows s.mem (s.addrI 0) (s.drawX x) (s.drawY y) (s.drawCount y n) s.fb

/-- VF reports the collision: the parameter `DRAW_FLAG_POLICY` is at the spec's default (R153; log 10). -/
theorem exec_drw_eq_next {x y n : Nibble} (h : exec (.drw x y n) s = .next t) :
    inBounds (s.addrI 0) (s.drawCount y n) = true ∧
      t = (((s.setFb (s.drawn x y n).1).setFlag (s.drawn x y n).2).emit (.present (s.drawn x y n).1)).advance :=
  checked_eq_next h

theorem exec_ldBcd_eq_next {x : Nibble} (h : exec (.ldBcd x) s = .next t) :
    inBounds (s.addrI 0) 3 = true ∧ t = (s.store (s.addrI 0) (bcdDigits (s.getV x))).advance :=
  checked_eq_next h

/-- I stays: the parameter `LOADSTORE_INCREMENTS_I` is at the spec's default (R177; log 11). -/
theorem exec_storeRegs_eq_next {x : Nibble} (h : exec (.storeRegs x) s = .next t) :
    inBounds (s.addrI 0) (x.toNat + 1) = true ∧ t = (s.store (s.addrI 0) (s.block x)).advance :=
  checked_eq_next h

/-- I stays: the parameter `LOADSTORE_INCREMENTS_I` is at the spec's default (R178; log 11). -/
theorem exec_loadRegs_eq_next {x : Nibble} (h : exec (.loadRegs x) s = .next t) :
    inBounds (s.addrI 0) (x.toNat + 1) = true ∧ t = (s.setBlock x).advance :=
  checked_eq_next h

/-- The one way an instruction faults (R203, R204): a fatal condition latched in the state before it, nothing else
changed. -/
theorem exec_eq_fault {i : Instr} {r : Fault} (h : exec i s = .fault r) :
    ∃ c, r = .fatal c (s.latchFatal c s.pc (encode i)) := by
  cases i
  case ret =>
    simp only [exec, execRet] at h
    split at h
    · cases h
    · cases h; exact ⟨_, rfl⟩
  case call =>
    simp only [exec, execCall] at h
    split at h
    · cases h
    · cases h; exact ⟨_, rfl⟩
  case drw | ldBcd | storeRegs | loadRegs => exact ⟨_, (checked_eq_fault h).2⟩
  all_goals cases h

end Results

/-! ### Frames: one rule per state operation -/

section Frames

variable {w : Writes} {s t : State}

theorem Frame.refl (w : Writes) (s : State) : Frame w s s where
  regs _ _ := rfl
  index _ := rfl
  dt _ := rfl
  st _ := rfl
  sp _ := rfl
  mem _ _ := rfl
  fb _ _ _ := rfl
  events _ := rfl
  plen := rfl
  fatal := rfl
  env := rfl
  inputs := rfl
  draws := rfl

theorem Frame.jump (h : Frame w s t) (target : Word) : Frame w s (t.jump target) := { h with }

theorem Frame.advance (h : Frame w s t) : Frame w s t.advance := { h with }

theorem Frame.skipIf (h : Frame w s t) (c : Bool) : Frame w s (t.skipIf c) := by
  cases c
  · exact h.advance
  · exact { h with }

theorem Frame.setV (h : Frame w s t) {x : Nibble} (hx : x ∈ w.regs) (b : Byte) : Frame w s (t.setV x b) :=
  { h with
    regs := fun r hr => by
      have hne : r ≠ x := fun e => hr (e ▸ hx)
      rw [State.getV_setV, if_neg hne, h.regs r hr] }

theorem Frame.setFlag (h : Frame w s t) (hvf : vf ∈ w.regs) (f : Bool) : Frame w s (t.setFlag f) :=
  h.setV hvf (flagByte f)

theorem Frame.setResultFlag (h : Frame w s t) {x : Nibble} (hx : x ∈ w.regs) (hvf : vf ∈ w.regs)
    (o : VfWriteOrder) (b : Byte) (f : Bool) : Frame w s (t.setResultFlag o x b f) := by
  cases o
  case flagLast => exact (h.setV hx b).setFlag hvf f
  case resultLast => exact (h.setFlag hvf f).setV hx b

theorem Frame.setBlock (h : Frame w s t) {x : Nibble} (hx : ∀ r : Nibble, r.toNat ≤ x.toNat → r ∈ w.regs) :
    Frame w s (t.setBlock x) :=
  { h with
    regs := fun r hr => by
      have hgt : ¬ r.toNat ≤ x.toNat := fun hle => hr (hx r hle)
      rw [State.getV_setBlock, if_neg hgt, h.regs r hr] }

theorem Frame.setI (h : Frame w s t) (hw : w.index = true) (a : Word) : Frame w s (t.setI a) :=
  { h with index := fun hf => by simp [hw] at hf }

theorem Frame.setDt (h : Frame w s t) (hw : w.dt = true) (b : Byte) : Frame w s (t.setDt b) :=
  { h with dt := fun hf => by simp [hw] at hf }

theorem Frame.setSt (h : Frame w s t) (hw : w.st = true) (b : Byte) : Frame w s (t.setSt b) :=
  { h with st := fun hf => by simp [hw] at hf }

theorem Frame.withSp (h : Frame w s t) (hw : w.sp = true) (k : Fin 25) : Frame w s { t with sp := k } :=
  { h with sp := fun hf => by simp [hw] at hf }

theorem Frame.setFb (h : Frame w s t) (hw : w.fb = true) (fb : FrameBuffer) : Frame w s (t.setFb fb) :=
  { h with fb := fun hf => by simp [hw] at hf }

theorem Frame.emit (h : Frame w s t) (hw : w.events = true) (e : Event) : Frame w s (t.emit e) :=
  { h with events := fun hf => by simp [hw] at hf }

theorem Frame.store (h : Frame w s t) {a : Nat} {bs : List Byte} (hw : ∀ k < bs.length, a + k ∈ w.mem) :
    Frame w s (t.store a bs) :=
  { h with
    mem := fun k hk => by
      have hout : k < a ∨ a + bs.length ≤ k := by
        by_contra hin
        have hmem := hw (k - a) (by omega)
        rw [show a + (k - a) = k by omega] at hmem
        exact hk hmem
      rw [State.store_mem, Memory.read_writeBytes_outside _ _ _ _ hout, h.mem k hk] }

theorem Frame.unimplemented (h : Frame w s t) (hw : w.events = true) (i : Instr) :
    Frame w s (unimplemented i t) :=
  (h.emit hw _).advance

theorem Frame.keyWait (h : Frame w s t) {x : Nibble} (hx : x ∈ w.regs) (k : Option Nibble) :
    Frame w s (keyWait x k t) := by
  cases k
  case none => exact h
  case some code => exact (h.setV hx _).advance

/-- The registers V0..Vx as the access matrix lists them for FX65. -/
theorem mem_blockRegs {x r : Nibble} (h : r.toNat ≤ x.toNat) :
    r ∈ (List.range (x.toNat + 1)).map (BitVec.ofNat 4) :=
  List.mem_map.2 ⟨r.toNat, List.mem_range.2 (by omega), by simp⟩

/-- A completing instruction changes only what its row of the access matrix lists (R37). -/
theorem exec_frame {i : Instr} (h : exec i s = .next t) : Frame (accessMatrix i s) s t := by
  have start : Frame (accessMatrix i s) s s := Frame.refl _ s
  cases i
  case cls => cases h; exact ((start.setFb rfl _).emit rfl _).advance
  case ret =>
    obtain ⟨k, -, rfl⟩ := exec_ret_eq_next h
    exact (start.withSp rfl _).jump _
  case jp | jpV0 => cases h; exact start.jump _
  case call =>
    obtain ⟨-, rfl⟩ := exec_call_eq_next h
    refine ((start.store fun k hk => ?_).withSp rfl _).jump _
    have : k = 0 ∨ k = 1 := by simp at hk; omega
    rcases this with rfl | rfl <;> simp [accessMatrix]
  case seImm | sneImm | seReg | sneReg | skp | sknp => cases h; exact start.skipIf _
  case ldImm | addImm | ldReg | orReg | andReg | xorReg | rnd | ldFromDt =>
    cases h; exact (start.setV (by simp [accessMatrix]) _).advance
  case addReg | subReg | shr | subnReg | shl =>
    cases h; exact (start.setResultFlag (by simp [accessMatrix]) (by simp [accessMatrix]) _ _ _).advance
  case ldI | ldFont => cases h; exact (start.setI rfl _).advance
  case drw =>
    obtain ⟨-, rfl⟩ := exec_drw_eq_next h
    exact (((start.setFb rfl _).setFlag (by simp [accessMatrix]) _).emit rfl _).advance
  case ldKey => cases h; exact start.keyWait (by simp [accessMatrix]) _
  case ldDt => cases h; exact (start.setDt rfl _).advance
  case ldSt => cases h; exact (start.setSt rfl _).advance
  case addI => cases h; exact ((start.setI rfl _).setFlag (by simp [accessMatrix]) _).advance
  case ldBcd =>
    obtain ⟨-, rfl⟩ := exec_ldBcd_eq_next h
    refine (start.store fun k hk => ?_).advance
    have : k = 0 ∨ k = 1 ∨ k = 2 := by simp [bcdDigits] at hk; omega
    rcases this with rfl | rfl | rfl <;> simp [accessMatrix]
  case storeRegs =>
    obtain ⟨-, rfl⟩ := exec_storeRegs_eq_next h
    exact (start.store fun k hk => by simpa [accessMatrix, State.length_block] using hk).advance
  case loadRegs =>
    obtain ⟨-, rfl⟩ := exec_loadRegs_eq_next h
    exact (start.setBlock fun r hr => mem_blockRegs hr).advance
  case unimpl0 | unimpl8 | unimplE | unimplF => cases h; exact start.unimplemented rfl _

/-- Settles O12: the frame of every completing instruction, by the rules of the operations it is made of. -/
theorem instructionsWriteOnlyTheirRow : Obligations.InstructionsWriteOnlyTheirRow :=
  fun _ _ _ h => exec_frame h

/-- Settles O17: a completing step by the instruction's frame, a fatal one by what latching leaves alone. -/
theorem noStepChangesTheLoadedLength : Obligations.NoStepChangesTheLoadedLength := by
  refine fun s => ⟨fun t h => ?_, fun c t h => ?_⟩
  · exact (exec_frame (step_eq_next s t h).2).plen
  · rcases step_cases s with ⟨-, hstep⟩ | ⟨-, -, hstep⟩ | ⟨-, hstep⟩ <;> rw [hstep] at h
    · obtain ⟨c', hc⟩ := exec_eq_fault h
      cases hc; rfl
    · cases h
    · cases h

end Frames

/-! ### PC (R24) and VF (R22) after an instruction -/

section PcAndFlag

variable {s t : State}

/-- No key of 0..15 is down exactly when the low 16 answers are all 0 (R171). -/
theorem Env.pressed_eq_nil_iff (e : Env) : e.pressed = [] ↔ e.keys.setWidth 16 = 0#16 := by
  rw [List.eq_nil_iff_forall_not_mem]
  simp only [Env.mem_pressed]
  constructor
  · intro h
    refine BitVec.eq_of_getLsbD_eq fun k hk => ?_
    have hk' : ¬ e.keys.getLsbD k = true := by simpa [Nat.mod_eq_of_lt hk] using h (BitVec.ofNat 4 k)
    simp [BitVec.getLsbD_setWidth, hk']
  · intro h k hk
    have h0 := congrArg (fun b : BitVec 16 => b.getLsbD k.toNat) h
    simp [BitVec.getLsbD_setWidth, hk] at h0
    have := k.isLt
    omega

/-- PC after LD Vx, K: the hold while no key of 0..15 is down, else the auto-advance (R171). -/
theorem keyWait_pc (x : Nibble) (e : Env) (s : State) :
    (keyWait x e.chosenKey s).pc = if e.keys.setWidth 16 = 0#16 then s.pc else s.pc + 2#16 := by
  rw [← if_congr (Env.pressed_eq_nil_iff e) rfl rfl]
  cases hk : e.chosenKey
  case none => simp [keyWait, (Env.chosenKey_eq_none e).1 hk]
  case some code =>
    have hne : e.pressed ≠ [] := List.ne_nil_of_mem (Env.chosenKey_mem e code hk)
    simp [keyWait, hne]

/-- PC after an instruction that completes (R24). -/
theorem exec_pc {i : Instr} (h : exec i s = .next t) : t.pc = pcAfter i s := by
  cases i
  case ret =>
    obtain ⟨k, hk, rfl⟩ := exec_ret_eq_next h
    simp [pcAfter, hk, slotAddr_eq]
  case call => obtain ⟨-, rfl⟩ := exec_call_eq_next h; rfl
  case drw => obtain ⟨-, rfl⟩ := exec_drw_eq_next h; rfl
  case ldBcd => obtain ⟨-, rfl⟩ := exec_ldBcd_eq_next h; rfl
  case storeRegs => obtain ⟨-, rfl⟩ := exec_storeRegs_eq_next h; rfl
  case loadRegs => obtain ⟨-, rfl⟩ := exec_loadRegs_eq_next h; rfl
  case ldKey x => cases h; exact keyWait_pc x s.env s
  case seImm | sneImm | seReg | sneReg => cases h; simp [pcAfter]
  case skp x | sknp x =>
    cases h
    cases hkey : s.env.keys.getLsbD (s.getV x).toNat <;> simp [pcAfter, Env.key, hkey]
  all_goals cases h; rfl

/-- Settles O13: by the class of each instruction; a fatal condition is latched where PC stands. -/
theorem everyInstructionLeavesPcAsItsClassSays : Obligations.EveryInstructionLeavesPcAsItsClassSays := by
  refine fun i s => ⟨fun t h => exec_pc h, fun c t h => ?_⟩
  obtain ⟨c', hc⟩ := exec_eq_fault h
  cases hc; rfl

/-- The seven flag-writing instructions end with a flag in VF (R22, R130). -/
theorem exec_vf_of_writesFlag {i : Instr} (hi : writesFlag i = true) (h : exec i s = .next t) :
    t.getV vf = 0x00#8 ∨ t.getV vf = 0x01#8 := by
  cases i
  case addReg | subReg | shr | subnReg | shl => cases h; simpa using flagByte_cases _
  case drw => obtain ⟨-, rfl⟩ := exec_drw_eq_next h; simpa using flagByte_cases _
  case addI => cases h; simpa using flagByte_cases _
  all_goals cases hi

/-- Settles O14: a flag is 0 or 1, and what no row lists is framed. -/
theorem flagIsZeroOrOneAndOtherwiseUntouched : Obligations.FlagIsZeroOrOneAndOtherwiseUntouched :=
  fun _ _ _ h => ⟨fun hi => exec_vf_of_writesFlag hi h, fun _ hvf => (exec_frame h).regs _ hvf⟩

end PcAndFlag

/-! ### Elements that instructions do not read: the oracle answers and ST -/

section Unread

/-- The state with the oracle answers and ST changed, all else alike. -/
def State.mapEnvSt (g : Env → Env) (k : Byte → Byte) (s : State) : State :=
  { s with env := g s.env, st := k s.st }

variable (g : Env → Env) (k : Byte → Byte) (s : State)

theorem State.mapEnvSt_skipIf (c : Bool) :
    (s.mapEnvSt g k).skipIf c = (s.skipIf c).mapEnvSt g k := by cases c <;> rfl

theorem State.mapEnvSt_keyWait (x : Nibble) (key : Option Nibble) :
    keyWait x key (s.mapEnvSt g k) = (keyWait x key s).mapEnvSt g k := by cases key <;> rfl

theorem State.mapEnvSt_push (a : Word) :
    (s.mapEnvSt g k).push a = (s.push a).map (State.mapEnvSt g k) := by
  by_cases h : s.sp.val < 24
  · rw [State.push_of_lt s a h, State.push_of_lt (s.mapEnvSt g k) a h]; rfl
  · have hfull : s.sp.val = 24 := by have := s.sp.isLt; omega
    rw [State.push_of_full s a hfull, State.push_of_full (s.mapEnvSt g k) a hfull]; rfl

theorem State.mapEnvSt_pop :
    (s.mapEnvSt g k).pop = s.pop.map (Prod.map id (State.mapEnvSt g k)) := by
  rcases Nat.eq_zero_or_eq_succ_pred s.sp.val with h | h
  · rw [State.pop_of_zero s h, State.pop_of_zero (s.mapEnvSt g k) h]; rfl
  · rw [State.pop_of_succ s _ h, State.pop_of_succ (s.mapEnvSt g k) _ h]; rfl

/-- A checked operation whose check does not see the change carries it through. -/
theorem mapStates_checked (c : Bool) (u : State) (cause : FatalCause) (i : Instr) :
    mapStates (State.mapEnvSt g k) (if c then .next u else raiseFatal cause i s) =
      if c then .next (u.mapEnvSt g k) else raiseFatal cause i (s.mapEnvSt g k) := by
  cases c <;> rfl

/-- An instruction that does not ask the oracles, or finds their answers unchanged, and that is not FX18, or finds ST
overwritten anyway, carries the change through to its outcome. -/
theorem exec_mapEnvSt (i : Instr) (hg : asksEnv i = true → g s.env = s.env)
    (hk : ∀ x, i = .ldSt x → ∀ b, k b = b) :
    exec i (s.mapEnvSt g k) = mapStates (State.mapEnvSt g k) (exec i s) := by
  cases i
  case ret =>
    simp only [exec, execRet, State.mapEnvSt_pop]
    cases s.pop <;> rfl
  case call nnn =>
    have hpush := State.mapEnvSt_push g k s (s.pc + 2#16)
    simp only [exec, execCall]
    rw [show (s.mapEnvSt g k).pc = s.pc from rfl, hpush]
    cases s.push (s.pc + 2#16) <;> rfl
  case seImm | sneImm | seReg | sneReg => exact congrArg _ (State.mapEnvSt_skipIf g k s _)
  case skp x | sknp x =>
    have henv : (s.mapEnvSt g k).env = s.env := hg rfl
    simp only [exec, execSkp, execSknp, henv]
    exact congrArg _ (State.mapEnvSt_skipIf g k s _)
  case rnd x nn =>
    have henv : (s.mapEnvSt g k).env = s.env := hg rfl
    simp only [exec, execRnd, henv]
    rfl
  case ldKey x =>
    have henv : (s.mapEnvSt g k).env = s.env := hg rfl
    simp only [exec, execLdKey, henv]
    exact congrArg _ (State.mapEnvSt_keyWait g k s x _)
  case ldSt x =>
    simp only [exec, execLdSt, mapStates, State.mapEnvSt, State.advance_st, State.setSt_st, hk x rfl]
    rfl
  case drw | ldBcd | storeRegs | loadRegs => exact Eq.symm (mapStates_checked g k s _ _ _ _)
  all_goals rfl

/-- Settles O15: nothing but the four asking instructions reads the oracle answers. -/
theorem onlyFourInstructionsAskTheOracles : Obligations.OnlyFourInstructionsAskTheOracles :=
  fun i s e hi => exec_mapEnvSt (fun _ => e) id s i (by simp [hi]) fun _ _ _ => rfl

/-- Settles O16: FX18 overwrites ST with a register, and nothing else reads it. -/
theorem noInstructionReadsTheSoundTimer : Obligations.NoInstructionReadsTheSoundTimer := by
  refine fun i s b => ⟨?_, fun hi => ?_⟩
  · rintro x rfl; rfl
  · exact exec_mapEnvSt id (fun _ => b) s i (fun _ => rfl) fun x hx => absurd hx (hi x)

end Unread

/-! ### The canonical memory (R31, R56) -/

section CanonicalMemory

/-- A cell of a list with rising addresses is what a read of its address gives. -/
theorem Memory.read_of_mem {m : Memory} (hm : List.Pairwise (fun c d : Host.Cell => c.1 < d.1) m) {c : Host.Cell}
    (hc : c ∈ m) : Memory.read m c.1 = c.2 := by
  induction hm with
  | nil => cases hc
  | @cons d m hd _ ih =>
    rw [Memory.read_cons]
    rcases List.mem_cons.1 hc with rfl | hc
    · rw [if_pos rfl]
    · rw [if_neg (Nat.ne_of_lt (hd c hc)), ih hc]

/-- An address that does not read as unlisted is listed, with the byte it reads as. -/
theorem Memory.mem_of_read_ne {m : Memory} {a : Nat} (h : Memory.read m a ≠ Memory.unlisted a) :
    (a, Memory.read m a) ∈ m := by
  induction m with
  | nil => exact absurd rfl h
  | cons c m ih =>
    rw [Memory.read_cons] at h ⊢
    split at h
    · next hc => subst hc; simp
    · next hc => rw [if_neg hc]; exact List.mem_cons_of_mem _ (ih h)

/-- The cells of a canonical memory are its reads that differ from the reset contents. -/
theorem Memory.mem_iff_read {m : Memory} (hm : Memory.wf m) (c : Host.Cell) :
    c ∈ m ↔ c.1 < memSize ∧ c.2 ≠ Memory.unlisted c.1 ∧ Memory.read m c.1 = c.2 := by
  obtain ⟨hsorted, hcells⟩ := hm
  constructor
  · intro hc
    exact ⟨(hcells c hc).1, (hcells c hc).2, Memory.read_of_mem hsorted hc⟩
  · rintro ⟨-, hne, hread⟩
    have := Memory.mem_of_read_ne (hread ▸ hne)
    rwa [hread] at this

/-- Settles O22: the reads determine the cells, and the rising order determines the list. -/
theorem canonicalMemoriesThatReadAlikeAreEqual : Obligations.CanonicalMemoriesThatReadAlikeAreEqual := by
  intro m m' hm hm' hread
  have hcells : ∀ c : Host.Cell, c ∈ m ↔ c ∈ m' := by
    intro c
    rw [Memory.mem_iff_read hm, Memory.mem_iff_read hm']
    exact and_congr_right fun hlt => by rw [hread c.1 hlt]
  have : Std.Irrefl fun c d : Host.Cell => c.1 < d.1 := ⟨fun c => Nat.lt_irrefl c.1⟩
  have : Std.Antisymm fun c d : Host.Cell => c.1 < d.1 := ⟨fun _ _ h h' => absurd h' (Nat.lt_asymm h)⟩
  exact List.Pairwise.eq_of_mem_iff hm.1 hm'.1 hcells

end CanonicalMemory

/-! ### The enabled step, Reset and the latched cause -/

section EnabledAndReset

/-- Settles O8: PLEN is at most 3232 by its type (R33), so PC is far below the wrap. -/
theorem enabledPcNeverWraps : Obligations.EnabledPcNeverWraps := by
  intro s h
  obtain ⟨-, hlo, hhi⟩ := (State.stepEnabled_iff s).1 h
  have hlen := s.plen.isLt
  have hadvance : (s.pc + 2#16).toNat = s.pc.toNat + 2 := by
    rw [BitVec.toNat_add]; exact Nat.mod_eq_of_lt (by simp; omega)
  have hskip : (s.pc + 4#16).toNat = s.pc.toNat + 4 := by
    rw [BitVec.toNat_add]; exact Nat.mod_eq_of_lt (by simp; omega)
  exact ⟨hlo, by omega, by omega, hadvance, hskip⟩

theorem inv_hostReset (s : State) : Inv s.hostReset where
  mem := Memory.wf_nil
  fatal := rfl
  events _ _ _ := List.not_mem_nil

/-- Settles O19: the reset state is itself a state after Reset. -/
theorem resetMeetsTheInvariant : Obligations.ResetMeetsTheInvariant :=
  ⟨inv_hostReset State.reset, inv_hostReset⟩

/-- The reset contents of memory (R36): the font, and zero past its end. -/
theorem Memory.unlisted_eq (a : Nat) : Memory.unlisted a = params.font.getD a 0x00#8 := by
  simp [Memory.unlisted]

theorem Memory.unlisted_of_ge {a : Nat} (h : 80 ≤ a) : Memory.unlisted a = 0x00#8 := by
  rw [Memory.unlisted_eq]
  exact List.getD_eq_default _ _ h

theorem hasResetValues_hostReset (s : State) : HasResetValues s.hostReset where
  regs r := Vector.getElem_replicate r.isLt
  index := rfl
  timers := ⟨rfl, rfl⟩
  pc := rfl
  sp := rfl
  font k _ := by
    rw [params_fontBase, Nat.zero_add]
    exact Memory.unlisted_eq k
  zeroed a _ ha := Memory.unlisted_of_ge (by rw [params_fontBase] at ha; omega)
  pixels r c := by simp [State.pixel, State.hostReset, State.reset]
  plen := rfl
  fatal := rfl

/-- With nothing loaded no PC is inside the program (R245). -/
theorem State.stepEnabled_of_plen_zero {s : State} (h : s.plen.val = 0) : s.stepEnabled = false := by
  rw [← Bool.not_eq_true, State.stepEnabled_iff]
  omega

/-- Settles O50: Reset gives the values whatever the state was, and with PLEN 0 no PC is inside the program. -/
theorem resetGivesTheResetState : Obligations.ResetGivesTheResetState :=
  ⟨hasResetValues_hostReset State.reset,
    fun s => ⟨s.hostReset, rfl, hasResetValues_hostReset s, State.stepEnabled_of_plen_zero rfl⟩⟩

/-- A machine with a latched cause is not in the reset state (R36). -/
theorem State.isReset_of_fatal {s : State} (h : s.fatal ≠ none) : s.isReset = false :=
  decide_eq_false fun hs => h (congrArg State.fatal hs)

theorem step_of_fatal {s : State} (h : s.fatal ≠ none) : step s = .fault (.stoppedByFatal s) := by
  rcases step_cases s with ⟨henabled, -⟩ | ⟨hnone, -⟩ | ⟨-, hstep⟩
  · exact absurd ((State.stepEnabled_iff s).1 henabled).1 h
  · exact absurd hnone h
  · exact hstep

/-- Settles O52: what each host operation does to a latched cause (R206). -/
theorem fatalCauseStaysUntilReset : Obligations.FatalCauseStaysUntilReset := by
  intro s c hc
  have hne : s.fatal ≠ none := by simp [hc]
  refine ⟨step_of_fatal hne, fun bytes => ?_, ⟨_, rfl, hc⟩, ⟨_, rfl, hc⟩, ⟨_, rfl, rfl⟩⟩
  simp [hostOp, State.hostLoad, State.isReset_of_fatal hne]

end EnabledAndReset

end Sys2Proof.Machine

/-! SUPPORT and PROOFS for the statements about memory (20_memory.md): every step keeps the invariant, the stack as a
sequence, a store over the next instruction. -/

namespace Sys2Proof.Machine

/-! ### The invariant is kept (R49, R56, R203) -/

section InvariantKept

variable {s t : State}

/-- A completing instruction reports no fatal condition (R203): what it emits, if anything, is another event. -/
theorem exec_fatal_mem_events {i : Instr} (h : exec i s = .next t) {cause : FatalCause} {pc instr : Word}
    (hmem : Event.fatal cause pc instr ∈ t.events) : Event.fatal cause pc instr ∈ s.events := by
  cases hrow : (accessMatrix i s).events
  case false => rwa [(exec_frame h).events hrow] at hmem
  case true =>
    cases i
    case cls => cases h; simpa using hmem
    case drw => obtain ⟨-, rfl⟩ := exec_drw_eq_next h; simpa [State.setFlag] using hmem
    case unimpl0 | unimpl8 | unimplE | unimplF => cases h; simpa using hmem
    all_goals cases hrow

theorem inv_takeInput (hs : Inv s) : Inv s.takeInput := { hs with }

theorem inv_exec {i : Instr} (hs : Inv s) (h : exec i s = .next t) : Inv t where
  mem := by
    rcases exec_mem i s t h with hmem | ⟨a, bs, hbound, hmem⟩
    · exact hmem ▸ hs.mem
    · exact hmem ▸ Memory.wf_writeBytes s.mem a bs hs.mem (.inr hbound)
  fatal := (exec_frame h).fatal.trans hs.fatal
  events cause pc instr hmem := hs.events cause pc instr (exec_fatal_mem_events h hmem)

/-- Settles O18: taking the input leaves what the invariant speaks of, and a completing instruction keeps it. -/
theorem stepKeepsTheInvariant : Obligations.StepKeepsTheInvariant :=
  fun s t hs h => inv_exec (inv_takeInput hs) (step_eq_next s t h).2

end InvariantKept

/-! ### The stack as a sequence (R51 to R53) -/

section StackSequence

variable {s t u : State}

/-- The word in stack slot `k`, high byte first (R51). -/
def Memory.slotWord (m : Memory) (k : Nat) : Word :=
  joinBytes (Memory.read m (slotAddr k)) (Memory.read m (slotAddr k + 1))

/-- What a push does to SP and to the slots in use: the address stands in the slot it took, those below are as before
(R52). -/
theorem push_slots {a : Word} (h : s.push a = some t) :
    t.sp.val = s.sp.val + 1 ∧ Memory.slotWord t.mem s.sp.val = a ∧
      ∀ k < s.sp.val, Memory.slotWord t.mem k = Memory.slotWord s.mem k := by
  obtain ⟨-, rfl⟩ := State.push_eq_some s t a h
  have hread (j : Nat) (hj : j < 2) := Memory.read_writeBytes_inside s.mem (slotAddr s.sp.val) j
    [hiByte a, loByte a] hj
  refine ⟨rfl, ?_, fun k hk => ?_⟩
  · have hhi := hread 0 (by decide)
    have hlo := hread 1 (by decide)
    rw [Nat.add_zero] at hhi
    rw [Memory.slotWord, hhi, hlo]
    exact joinBytes_hiByte_loByte a
  · have hbelow : slotAddr k + 1 < slotAddr s.sp.val := by simp only [slotAddr_eq]; omega
    rw [Memory.slotWord, Memory.read_writeBytes_outside _ _ _ _ (.inl (by omega)),
      Memory.read_writeBytes_outside _ _ _ _ (.inl hbelow), Memory.slotWord]

theorem pushAll_cons (a : Word) (as : List Word) (s : State) :
    pushAll (a :: as) s = (s.push a).bind (pushAll as) := by
  cases hpush : s.push a <;> simp only [pushAll, hpush, Option.bind]

/-- A sequence of pushes completes exactly when the addresses fit (R52). -/
theorem isSome_pushAll_iff (as : List Word) (s : State) :
    (pushAll as s).isSome = true ↔ s.sp.val + as.length ≤ 24 := by
  induction as generalizing s with
  | nil => exact iff_of_true rfl (Nat.le_of_lt_succ s.sp.isLt)
  | cons a as ih =>
    rw [pushAll_cons, List.length_cons]
    by_cases hlt : s.sp.val < 24
    · obtain ⟨t, hpush⟩ : ∃ t, s.push a = some t := ⟨_, State.push_of_lt s a hlt⟩
      obtain ⟨hsp, -, -⟩ := push_slots hpush
      rw [hpush, Option.bind_some, ih]
      omega
    · have hfull : s.sp.val = 24 := by have := s.sp.isLt; omega
      rw [State.push_of_full s a hfull]
      exact iff_of_false Bool.false_ne_true (by omega)

/-- What a sequence of pushes does to SP and to the slots in use before it. -/
theorem pushAll_slots {as : List Word} (h : pushAll as s = some t) :
    t.sp.val = s.sp.val + as.length ∧ ∀ k < s.sp.val, Memory.slotWord t.mem k = Memory.slotWord s.mem k := by
  induction as generalizing s with
  | nil => cases h; exact ⟨rfl, fun _ _ => rfl⟩
  | cons a as ih =>
    rw [pushAll_cons, Option.bind_eq_some_iff] at h
    obtain ⟨r, hpush, hrest⟩ := h
    obtain ⟨hsp, -, hslots⟩ := push_slots hpush
    obtain ⟨hspt, hslotst⟩ := ih hrest
    refine ⟨by rw [List.length_cons]; omega, fun k hk => ?_⟩
    rw [hslotst k (by omega), hslots k hk]

/-- One more pop after `n` of them. -/
theorem popAll_succ_of_pop {n : Nat} {as : List Word} {a : Word} (h : popAll n s = some (as, t))
    (hpop : t.pop = some (a, u)) : popAll (n + 1) s = some (as ++ [a], u) := by
  induction n generalizing s as with
  | zero => cases h; simp only [popAll, hpop, List.nil_append]
  | succ n ih =>
    rw [popAll] at h
    split at h
    · next b r hb =>
      split at h
      · next bs v hbs =>
        cases h
        rw [popAll, hb]
        simp only [ih hbs, List.cons_append]
      · cases h
    · cases h

/-- Popping what was pushed gives it in reverse order and moves nothing but SP (R53): the first address pushed is
popped last, from a slot that the later pushes left alone. -/
theorem popAll_of_pushAll {as : List Word} (h : pushAll as s = some t) :
    popAll as.length t = some (as.reverse, { t with sp := s.sp }) := by
  induction as generalizing s with
  | nil => cases h; rfl
  | cons a as ih =>
    rw [pushAll_cons, Option.bind_eq_some_iff] at h
    obtain ⟨r, hpush, hrest⟩ := h
    obtain ⟨hsp, hslot, -⟩ := push_slots hpush
    have hkept : Memory.slotWord t.mem s.sp.val = a :=
      ((pushAll_slots hrest).2 s.sp.val (by omega)).trans hslot
    have hpop := State.pop_of_succ { t with sp := r.sp } s.sp.val hsp
    rw [← Memory.slotWord, hkept] at hpop
    rw [List.length_cons, List.reverse_cons]
    exact popAll_succ_of_pop (ih hrest) hpop

/-- Settles O26: by induction over the addresses pushed, from any depth. -/
theorem pushedAddressesPopInReverse : Obligations.PushedAddressesPopInReverse := by
  refine fun s as => ⟨fun hfits => ?_, fun hover => ?_, State.pop_of_zero s⟩
  · obtain ⟨t, ht⟩ := Option.isSome_iff_exists.1 ((isSome_pushAll_iff as s).2 hfits)
    exact ⟨t, { t with sp := s.sp }, ht, (pushAll_slots ht).1, popAll_of_pushAll ht, rfl, rfl⟩
  · rw [← Option.not_isSome_iff_eq_none, isSome_pushAll_iff]
    exact Nat.not_le_of_lt hover

end StackSequence

/-! ### A store over the next instruction (R46, R60) -/

section StoreThenFetch

variable {s t : State}

/-- A fetch from inside stored bytes gives two of them, in their order. -/
theorem fetchWord_of_writeBytes {m : Memory} {a j : Nat} {bs : List Byte}
    (hmem : t.mem = Memory.writeBytes m a bs) (hpc : t.pc.toNat = a + j) (hj : j + 1 < bs.length) :
    t.fetchWord = joinBytes bs[j] bs[j + 1] := by
  rw [State.fetchWord, hmem, hpc, Nat.add_assoc, Memory.read_writeBytes_inside _ _ _ _ (Nat.lt_of_succ_lt hj),
    Memory.read_writeBytes_inside _ _ _ _ hj]

theorem toNat_joinBytes (hi lo : Byte) : (joinBytes hi lo).toNat = hi.toNat * 256 + lo.toNat := by
  rw [joinBytes, BitVec.toNat_append, ← Nat.shiftLeft_add_eq_or_of_lt lo.isLt, Nat.shiftLeft_eq]

@[simp] theorem length_bcdDigits (b : Byte) : (bcdDigits b).length = 3 := rfl

/-- The hundreds and the tens digit as a word: each digit fits its byte. -/
theorem toNat_joinBytes_bcdDigits (b : Byte) :
    (joinBytes ((bcdDigits b)[0]'(by simp)) ((bcdDigits b)[1]'(by simp))).toNat =
      b.toNat / 100 * 256 + b.toNat / 10 % 10 := by
  have hb := b.isLt
  simp only [toNat_joinBytes, bcdDigits, List.getElem_cons_zero, List.getElem_cons_succ, BitVec.toNat_ofNat]
  omega

theorem fetchWord_of_storeRegs {x r q : Nibble} (h : exec (.storeRegs x) s = .next t) (hq : q.toNat = r.toNat + 1)
    (hqx : q.toNat ≤ x.toNat) (hpc : t.pc.toNat = s.i.toNat + r.toNat) : t.fetchWord = s.getV r ++ s.getV q := by
  obtain ⟨-, rfl⟩ := exec_storeRegs_eq_next h
  rw [fetchWord_of_writeBytes rfl hpc (by rw [State.length_block]; omega)]
  simp only [State.getElem_block, ← hq, BitVec.ofNat_toNat, BitVec.setWidth_eq, joinBytes]

theorem fetchWord_of_ldBcd {x : Nibble} (h : exec (.ldBcd x) s = .next t) (hpc : t.pc.toNat = s.i.toNat) :
    t.fetchWord.toNat = (s.getV x).toNat / 100 * 256 + (s.getV x).toNat / 10 % 10 := by
  obtain ⟨-, rfl⟩ := exec_ldBcd_eq_next h
  have hfetch := fetchWord_of_writeBytes (j := 0) rfl hpc (by rw [length_bcdDigits]; decide)
  exact (congrArg BitVec.toNat hfetch).trans (toNat_joinBytes_bcdDigits (s.getV x))

/-- Settles O48: PC stands inside the bytes just stored, and the fetch reads them from there. -/
theorem storeIsSeenByTheNextFetch : Obligations.StoreIsSeenByTheNextFetch :=
  fun _ _ _ => ⟨fun h _ _ => fetchWord_of_storeRegs h, fetchWord_of_ldBcd⟩

end StoreThenFetch

end Sys2Proof.Machine

/-! SUPPORT and PROOFS for the statements about the encoding (30_encoding.md): decoder and encoder are inverse to each
other, a word selects one row of the opcode map, a step runs the word at PC. -/

namespace Sys2Proof

/-! ### Decoding an encoded instruction (R71, R73) -/

section DecodeEncode

open Laws

theorem decodeWord_encode : ∀ i : Instr, i.wf = true → decodeWord (encode i) = i
  | .cls => RoundTrip.cls
  | .ret => RoundTrip.ret
  | .jp nnn => RoundTrip.jp nnn
  | .call nnn => RoundTrip.call nnn
  | .seImm x nn => RoundTrip.seImm x nn
  | .sneImm x nn => RoundTrip.sneImm x nn
  | .seReg x y n => RoundTrip.seReg x y n
  | .ldImm x nn => RoundTrip.ldImm x nn
  | .addImm x nn => RoundTrip.addImm x nn
  | .ldReg x y => RoundTrip.ldReg x y
  | .orReg x y => RoundTrip.orReg x y
  | .andReg x y => RoundTrip.andReg x y
  | .xorReg x y => RoundTrip.xorReg x y
  | .addReg x y => RoundTrip.addReg x y
  | .subReg x y => RoundTrip.subReg x y
  | .shr x y => RoundTrip.shr x y
  | .subnReg x y => RoundTrip.subnReg x y
  | .shl x y => RoundTrip.shl x y
  | .sneReg x y n => RoundTrip.sneReg x y n
  | .ldI nnn => RoundTrip.ldI nnn
  | .jpV0 nnn => RoundTrip.jpV0 nnn
  | .rnd x nn => RoundTrip.rnd x nn
  | .drw x y n => RoundTrip.drw x y n
  | .skp x => RoundTrip.skp x
  | .sknp x => RoundTrip.sknp x
  | .ldFromDt x => RoundTrip.ldFromDt x
  | .ldKey x => RoundTrip.ldKey x
  | .ldDt x => RoundTrip.ldDt x
  | .ldSt x => RoundTrip.ldSt x
  | .addI x => RoundTrip.addI x
  | .ldFont x => RoundTrip.ldFont x
  | .ldBcd x => RoundTrip.ldBcd x
  | .storeRegs x => RoundTrip.storeRegs x
  | .loadRegs x => RoundTrip.loadRegs x
  | .unimpl0 nnn => RoundTrip.unimpl0 nnn
  | .unimpl8 x y n => RoundTrip.unimpl8 x y n
  | .unimplE x nn => RoundTrip.unimplE x nn
  | .unimplF x nn => RoundTrip.unimplF x nn

/-- The bytes of an instruction are read back as its word (R46). -/
theorem decode_encodeBytes_append (i : Instr) (rest : List Byte) :
    decode (encodeBytes i ++ rest) = .ok (decodeWord (encode i), rest) :=
  congrArg (fun w => Except.ok (decodeWord w, rest)) (joinBytes_hiByte_loByte (encode i))

/-- Settles O3: the bytes give the word back, and the word the instruction, row by row. -/
theorem decodeOfEncodeIsTheInstruction : Obligations.DecodeOfEncodeIsTheInstruction := by
  intro i rest hwf
  rw [decode_encodeBytes_append, decodeWord_encode i hwf]

/-- Settles O1: each word by running the decoder on its two bytes. -/
theorem writtenWordsDecode : Obligations.WrittenWordsDecode :=
  ⟨rfl, rfl, rfl, rfl, rfl, rfl, rfl, rfl, rfl, rfl, rfl, rfl⟩

end DecodeEncode

/-! ### Encoding a decoded word (R72, R84) -/

section EncodeDecode

variable {w : Word} {op n : Nibble} {nn : Byte}

/-- A field is a shift and a mask of ones (R72). -/
theorem toNat_extractLsb'_eq_and (w : Word) (start len : Nat) :
    (w.extractLsb' start len).toNat = (w.toNat >>> start) &&& (2 ^ len - 1) := by
  rw [BitVec.extractLsb'_toNat, Nat.and_two_pow_sub_one_eq_mod]

/-- Settles O2: each field is an extraction of its own start and width. -/
theorem fieldsAreBitMasks : Obligations.FieldsAreBitMasks := fun w =>
  ⟨toNat_extractLsb'_eq_and w 12 4, toNat_extractLsb'_eq_and w 8 4, toNat_extractLsb'_eq_and w 4 4,
    toNat_extractLsb'_eq_and w 0 4, toNat_extractLsb'_eq_and w 0 8, toNat_extractLsb'_eq_and w 0 12⟩

theorem append_nnn_eq (hop : opOf w = op) : op ++ nnnOf w = w := hop ▸ op_append_nnn w

theorem append_xnn_eq (hop : opOf w = op) (hnn : nnOf w = nn) : op ++ xOf w ++ nn = w :=
  hop ▸ hnn ▸ op_append_xnn w

theorem append_xyn_eq (hop : opOf w = op) (hn : nOf w = n) : op ++ xOf w ++ yOf w ++ n = w :=
  hop ▸ hn ▸ op_append_xyn w

/-- The instruction stands for the word, and for a word of its own row. -/
abbrev Instr.StandsFor (i : Instr) (w : Word) : Prop := i.wf = true ∧ encode i = w

/-- Each branch may use its own test. -/
theorem Instr.standsFor_ite {c : Prop} [Decidable c] {i j : Instr} (hi : c → i.StandsFor w)
    (hj : ¬c → j.StandsFor w) : (if c then i else j).StandsFor w :=
  iteInduction (motive := (Instr.StandsFor · w)) hi hj

theorem decode0_standsFor (hop : opOf w = 0x0#4) : (decode0 w).StandsFor w := by
  have hw : 0x0#4 ++ nnnOf w = w := append_nnn_eq hop
  refine Instr.standsFor_ite (fun hcls => ⟨rfl, hcls.symm⟩) fun hcls =>
    Instr.standsFor_ite (fun hret => ⟨rfl, hret.symm⟩) fun hret => ⟨?_, hw⟩
  have hE0 : nnnOf w ≠ 0x0E0#12 := fun h => hcls (by rw [← hw, h]; rfl)
  have hEE : nnnOf w ≠ 0x0EE#12 := fun h => hret (by rw [← hw, h]; rfl)
  simp [Instr.wf, hE0, hEE]

theorem decode8_standsFor (hop : opOf w = 0x8#4) : (decode8 w).StandsFor w := by
  unfold decode8
  iterate 9 refine Instr.standsFor_ite (fun hn => ⟨rfl, append_xyn_eq hop hn⟩) fun hn => ?_
  exact ⟨by simp [Instr.wf, assigned8, *], append_xyn_eq hop rfl⟩

theorem decodeE_standsFor (hop : opOf w = 0xE#4) : (decodeE w).StandsFor w := by
  unfold decodeE
  iterate 2 refine Instr.standsFor_ite (fun hnn => ⟨rfl, append_xnn_eq hop hnn⟩) fun hnn => ?_
  exact ⟨by simp [Instr.wf, assignedE, *], append_xnn_eq hop rfl⟩

theorem decodeF_standsFor (hop : opOf w = 0xF#4) : (decodeF w).StandsFor w := by
  unfold decodeF
  iterate 9 refine Instr.standsFor_ite (fun hnn => ⟨rfl, append_xnn_eq hop hnn⟩) fun hnn => ?_
  exact ⟨by simp [Instr.wf, assignedF, *], append_xnn_eq hop rfl⟩

theorem decodeWord_standsFor (w : Word) : (decodeWord w).StandsFor w := by
  refine
    Instr.standsFor_ite decode0_standsFor fun h0 =>
    Instr.standsFor_ite (fun h => ⟨rfl, append_nnn_eq h⟩) fun h1 =>
    Instr.standsFor_ite (fun h => ⟨rfl, append_nnn_eq h⟩) fun h2 =>
    Instr.standsFor_ite (fun h => ⟨rfl, append_xnn_eq h rfl⟩) fun h3 =>
    Instr.standsFor_ite (fun h => ⟨rfl, append_xnn_eq h rfl⟩) fun h4 =>
    Instr.standsFor_ite (fun h => ⟨rfl, append_xyn_eq h rfl⟩) fun h5 =>
    Instr.standsFor_ite (fun h => ⟨rfl, append_xnn_eq h rfl⟩) fun h6 =>
    Instr.standsFor_ite (fun h => ⟨rfl, append_xnn_eq h rfl⟩) fun h7 =>
    Instr.standsFor_ite decode8_standsFor fun h8 =>
    Instr.standsFor_ite (fun h => ⟨rfl, append_xyn_eq h rfl⟩) fun h9 =>
    Instr.standsFor_ite (fun h => ⟨rfl, append_nnn_eq h⟩) fun hA =>
    Instr.standsFor_ite (fun h => ⟨rfl, append_nnn_eq h⟩) fun hB =>
    Instr.standsFor_ite (fun h => ⟨rfl, append_xnn_eq h rfl⟩) fun hC =>
    Instr.standsFor_ite (fun h => ⟨rfl, append_xyn_eq h rfl⟩) fun hD =>
    Instr.standsFor_ite decodeE_standsFor fun hE => decodeF_standsFor ?_
  bv_omega

/-- Settles O4: family by family, along the decoder's branches. -/
theorem encodeOfDecodeIsTheWord : Obligations.EncodeOfDecodeIsTheWord := decodeWord_standsFor

end EncodeDecode

/-! ### The row of the opcode map a word selects (R74, R80, R81) -/

section OpcodeMap

variable {w : Word} {r : OpcodeRow} {rows : List OpcodeRow} {i : Instr} {op n : Nibble} {nn : Byte}

/-! The three forms of a row: it fixes the leading nibble, or the trailing nibble or the trailing byte with it. -/

theorem takes_of_op {m : String} (hop : opOf w = op) :
    OpcodeRow.takes ⟨m, BitVec.allOnes 4 ++ 0#12, op ++ 0#12⟩ w = true := by
  rw [OpcodeRow.takes, beq_iff_eq, ← append_nnn_eq hop, BitVec.and_append]
  simp only [BitVec.and_allOnes, BitVec.and_zero]

theorem takes_of_op_n {m : String} (hop : opOf w = op) (hn : nOf w = n) :
    OpcodeRow.takes ⟨m, BitVec.allOnes 4 ++ 0#4 ++ 0#4 ++ BitVec.allOnes 4, op ++ 0#4 ++ 0#4 ++ n⟩ w = true := by
  rw [OpcodeRow.takes, beq_iff_eq, ← append_xyn_eq hop hn, BitVec.and_append]
  simp only [BitVec.and_append, BitVec.and_allOnes, BitVec.and_zero]

theorem takes_of_op_nn {m : String} (hop : opOf w = op) (hnn : nnOf w = nn) :
    OpcodeRow.takes ⟨m, BitVec.allOnes 4 ++ 0#4 ++ BitVec.allOnes 8, op ++ 0#4 ++ nn⟩ w = true := by
  rw [OpcodeRow.takes, beq_iff_eq, ← append_xnn_eq hop hnn, BitVec.and_append]
  simp only [BitVec.and_append, BitVec.and_allOnes, BitVec.and_zero]

/-- The instruction row named by the instruction's mnemonic; an unimplemented encoding has none. -/
def Instr.row? (i : Instr) : Option OpcodeRow := instructionRows.find? fun r => r.mnemonic == i.mnemonic

theorem takes_encode_of_row? (hrow : i.row? = some r) : r.takes (encode i) = true := by
  cases i
  case cls | ret => cases hrow; rfl
  case jp | call | ldI | jpV0 => cases hrow; exact takes_of_op (opOf_nnn _ _)
  case seImm | sneImm | ldImm | addImm | rnd => cases hrow; exact takes_of_op (opOf_xnn _ _ _)
  case seReg | sneReg | drw => cases hrow; exact takes_of_op (opOf_xyn _ _ _ _)
  case ldReg | orReg | andReg | xorReg | addReg | subReg | shr | subnReg | shl =>
    cases hrow; exact takes_of_op_n (opOf_xyn _ _ _ _) (nOf_xyn _ _ _ _)
  case unimpl0 | unimpl8 | unimplE | unimplF => cases hrow
  all_goals cases hrow; exact takes_of_op_nn (opOf_xnn _ _ _) (nnOf_xnn _ _ _)

/-- The rows differ in a bit that both fix. -/
abbrev OpcodeRow.Apart (r q : OpcodeRow) : Prop := r.bits &&& q.mask ≠ q.bits &&& r.mask

theorem pairwise_apart_instructionRows : instructionRows.Pairwise OpcodeRow.Apart := by decide

theorem pairwise_apart_fallbackRows : fallbackRows.Pairwise OpcodeRow.Apart := by decide

theorem OpcodeRow.takes_eq_true_iff : r.takes w = true ↔ w &&& r.mask = r.bits := beq_iff_eq

theorem OpcodeRow.Apart.not_takes_both {q : OpcodeRow} (h : r.Apart q) (hr : r.takes w = true) :
    ¬q.takes w = true := by
  rw [OpcodeRow.takes_eq_true_iff] at *
  intro hq
  exact h (by rw [← hr, ← hq, BitVec.and_assoc, BitVec.and_assoc, BitVec.and_comm r.mask])

/-- Of rows that are pairwise apart no second one takes the word. -/
theorem filter_takes_eq_singleton (hrows : rows.Pairwise OpcodeRow.Apart) (hr : r ∈ rows)
    (htakes : r.takes w = true) : rows.filter (fun r => r.takes w) = [r] := by
  have hmem : r ∈ rows.filter (fun r => r.takes w) := List.mem_filter.2 ⟨hr, htakes⟩
  have hall : ∀ q ∈ rows.filter (fun r => r.takes w), q.takes w = true := fun q hq => (List.mem_filter.1 hq).2
  have hapart := hrows.filter (fun r => r.takes w)
  generalize rows.filter _ = taken at *
  match taken with
  | [q] => rw [List.mem_singleton.1 hmem]
  | q :: q' :: _ =>
    have hqq' := List.rel_of_pairwise_cons hapart List.mem_cons_self
    exact absurd (hall q' (by simp)) (hqq'.not_takes_both (hall q (by simp)))

/-! What the table fixes of the words of the four families with unimplemented encodings: the leading nibble, and one of
the second selectors that `Instr.wf` excludes for them. -/

theorem nnOf_and (w m : Word) : nnOf (w &&& m) = nnOf w &&& nnOf m := BitVec.extractLsb'_and

theorem nnnOf_and (w m : Word) : nnnOf (w &&& m) = nnnOf w &&& nnnOf m := BitVec.extractLsb'_and

theorem instructionRows_fix_op : ∀ r ∈ instructionRows, opOf r.mask = BitVec.allOnes 4 := by decide

theorem instructionRows_fix_nnn : ∀ r ∈ instructionRows, opOf r.bits = 0x0#4 →
    nnnOf r.mask = BitVec.allOnes 12 ∧ nnnOf r.bits ∈ [0x0E0#12, 0x0EE#12] := by decide

theorem instructionRows_fix_n : ∀ r ∈ instructionRows, opOf r.bits = 0x8#4 →
    nOf r.mask = BitVec.allOnes 4 ∧ nOf r.bits ∈ assigned8 := by decide

theorem instructionRows_fix_nnE : ∀ r ∈ instructionRows, opOf r.bits = 0xE#4 →
    nnOf r.mask = BitVec.allOnes 8 ∧ nnOf r.bits ∈ assignedE := by decide

theorem instructionRows_fix_nnF : ∀ r ∈ instructionRows, opOf r.bits = 0xF#4 →
    nnOf r.mask = BitVec.allOnes 8 ∧ nnOf r.bits ∈ assignedF := by decide

/-- A field whose bits the row fixes is the row's in every word that it takes. -/
theorem field_eq_of_takes {k : Nat} (field : Word → BitVec k)
    (hfield : ∀ a m, field (a &&& m) = field a &&& field m)
    (htakes : r.takes w = true) (hmask : field r.mask = BitVec.allOnes k) : field r.bits = field w := by
  rw [← OpcodeRow.takes_eq_true_iff.1 htakes, hfield, hmask, BitVec.and_allOnes]

/-- An unimplemented encoding that is well-formed is taken by no instruction row (R81). -/
theorem not_takes_encode_of_row?_eq_none (hwf : i.wf = true) (hrow : i.row? = none) (hr : r ∈ instructionRows) :
    ¬r.takes (encode i) = true := by
  intro htakes
  have hop : opOf r.bits = opOf (encode i) := field_eq_of_takes opOf opOf_and htakes (instructionRows_fix_op r hr)
  cases i
  case unimpl0 nnn =>
    obtain ⟨hmask, hsel⟩ := instructionRows_fix_nnn r hr (hop.trans (opOf_nnn _ _))
    rw [field_eq_of_takes nnnOf nnnOf_and htakes hmask, encode, nnnOf_nnn] at hsel
    rcases List.mem_pair.1 hsel with hcls | hret
    · simp [Instr.wf, hcls] at hwf
    · simp [Instr.wf, hret] at hwf
  case unimpl8 x y n =>
    obtain ⟨hmask, hsel⟩ := instructionRows_fix_n r hr (hop.trans (opOf_xyn _ _ _ _))
    rw [field_eq_of_takes nOf nOf_and htakes hmask, encode, nOf_xyn] at hsel
    simp [Instr.wf, hsel] at hwf
  case unimplE x nn =>
    obtain ⟨hmask, hsel⟩ := instructionRows_fix_nnE r hr (hop.trans (opOf_xnn _ _ _))
    rw [field_eq_of_takes nnOf nnOf_and htakes hmask, encode, nnOf_xnn] at hsel
    simp [Instr.wf, hsel] at hwf
  case unimplF x nn =>
    obtain ⟨hmask, hsel⟩ := instructionRows_fix_nnF r hr (hop.trans (opOf_xnn _ _ _))
    rw [field_eq_of_takes nnOf nnOf_and htakes hmask, encode, nnOf_xnn] at hsel
    simp [Instr.wf, hsel] at hwf
  all_goals cases hrow

theorem exists_fallbackRow_of_row?_eq_none (hrow : i.row? = none) :
    ∃ r ∈ fallbackRows, r.takes (encode i) = true ∧ i.mnemonic = r.mnemonic := by
  cases i
  case unimpl0 => exact ⟨⟨"UNIMPL.0", 0xF000, 0x0000⟩, by decide, takes_of_op (opOf_nnn _ _), rfl⟩
  case unimpl8 => exact ⟨⟨"UNIMPL.8", 0xF000, 0x8000⟩, by decide, takes_of_op (opOf_xyn _ _ _ _), rfl⟩
  case unimplE => exact ⟨⟨"UNIMPL.E", 0xF000, 0xE000⟩, by decide, takes_of_op (opOf_xnn _ _ _), rfl⟩
  case unimplF => exact ⟨⟨"UNIMPL.F", 0xF000, 0xF000⟩, by decide, takes_of_op (opOf_xnn _ _ _), rfl⟩
  all_goals cases hrow

/-- Settles O5: every word is the encoding of the instruction it decodes to (O4), so the row of that instruction takes
it, and the rows are pairwise apart. -/
theorem decoderSelectsTheRowOfTheOpcodeMap : Obligations.DecoderSelectsTheRowOfTheOpcodeMap := by
  refine ⟨rfl, rfl, fun w => ?_⟩
  obtain ⟨hwf, henc⟩ := decodeWord_standsFor w
  cases hrow : (decodeWord w).row? with
  | some r =>
    have htakes := takes_encode_of_row? hrow
    rw [henc] at htakes
    have hname : r.mnemonic = (decodeWord w).mnemonic := by simpa using List.find?_some hrow
    exact .inl ⟨r, filter_takes_eq_singleton pairwise_apart_instructionRows (List.mem_of_find?_eq_some hrow) htakes,
      hname.symm⟩
  | none =>
    obtain ⟨r, hr, htakes, hname⟩ := exists_fallbackRow_of_row?_eq_none hrow
    rw [henc] at htakes
    refine .inr ⟨List.filter_eq_nil_iff.2 fun q hq => ?_, r,
      filter_takes_eq_singleton pairwise_apart_fallbackRows hr htakes, hname⟩
    have hnot := not_takes_encode_of_row?_eq_none hwf hrow hq
    rwa [henc] at hnot

end OpcodeMap

end Sys2Proof

namespace Sys2Proof.Machine

/-! ### The step -/

section DecodedStep

/-- Settles O6: the fetched word is the two bytes decoded, and the state differs by the step's input. -/
theorem stepRunsTheDecodedInstruction : Obligations.StepRunsTheDecodedInstruction := by
  intro s i hfatal hlo hhi hdec
  have henabled : s.stepEnabled = true := (State.stepEnabled_iff s).2 ⟨hfatal, hlo, hhi⟩
  have hi : decodeWord s.fetchWord = i := by cases hdec; rfl
  refine ⟨s.takeInput, s.nextInput, hi ▸ step_of_enabled s henabled, fun a rest h => ?_, fun h => ?_, rfl, rfl, rfl,
    toNat_countDown _ _, toNat_countDown _ _, rfl, rfl, rfl, rfl, rfl, rfl, rfl, rfl, rfl⟩
  · rw [State.nextInput, h]
  · rw [State.nextInput, h]

/-- The word is placed inside the program region (R245). -/
theorem State.fetchPlace_bounds (s : State) : 0x200 ≤ s.fetchPlace ∧ s.fetchPlace < 0xEA0 := by
  unfold State.fetchPlace
  split_ifs with h
  · exact h
  · decide

theorem State.toNat_pc_withFetchWord (s : State) (nbits k : Nat) :
    (s.withFetchWord nbits k).pc.toNat = s.fetchPlace := by
  have := s.fetchPlace_bounds
  exact Nat.mod_eq_of_lt (by omega)

/-- The loaded length reaches over the first byte of the placed word, also at the last place, where its second byte
lies past the program region. -/
theorem State.stepEnabled_withFetchWord (s : State) (nbits k : Nat) :
    (s.withFetchWord nbits k).stepEnabled = true := by
  have hplace := s.fetchPlace_bounds
  have hplen : (s.withFetchWord nbits k).plen.val = max s.plen.val (min (s.fetchPlace + 2 - 0x200) 3232) :=
    Nat.mod_eq_of_lt (by have := s.plen.isLt; simp only [progBase, progCap]; omega)
  rw [State.stepEnabled_iff, State.toNat_pc_withFetchWord, hplen]
  exact ⟨rfl, by omega, by omega⟩

theorem State.fetchWord_withFetchWord (s : State) (w : Word) : (s.withFetchWord 16 w.toNat).fetchWord = w := by
  have hw : BitVec.ofNat 16 (w.toNat % 2 ^ 16) = w := by simp [Nat.mod_eq_of_lt w.isLt]
  rw [fetchWord_of_writeBytes (j := 0) rfl (s.toNat_pc_withFetchWord 16 w.toNat) (by simp)]
  exact (joinBytes_hiByte_loByte _).trans hw

/-- Settles O9: the step is enabled where the word is placed, and the fetch reads the word back. -/
theorem placedWordIsTheNextInstruction : Obligations.PlacedWordIsTheNextInstruction := by
  intro s w
  rw [step_of_enabled _ (s.stepEnabled_withFetchWord 16 w.toNat), s.fetchWord_withFetchWord]

end DecodedStep

end Sys2Proof.Machine

/-! SUPPORT and PROOFS for the statements about the flow families 0x0, 0x1, 0x2 (40_flow_family_0_1_2.md), the jump
with offset (R142) and the unimplemented encodings of the opcode map (30_encoding.md R81). -/

namespace Sys2Proof

/-! ### The words of the `UNIMPL` rows (R81, R102, R129, R162, R179) -/

section UnimplementedWords

variable {w : Word} {n : Nibble} {nn : Byte}

/-- The word is the encoding of an instruction that no instruction row of the opcode map takes. -/
def UnimplementedWord (w : Word) : Prop := ∃ i : Instr, i.wf = true ∧ i.row? = none ∧ encode i = w

theorem toNat_opOf (w : Word) : (opOf w).toNat = w.toNat / 4096 := by
  have := w.isLt
  rw [opOf, BitVec.extractLsb'_toNat, Nat.shiftRight_eq_div_pow]
  omega

theorem toNat_nOf (w : Word) : (nOf w).toNat = w.toNat % 16 := BitVec.extractLsb'_toNat ..

theorem toNat_nnOf (w : Word) : (nnOf w).toNat = w.toNat % 256 := BitVec.extractLsb'_toNat ..

theorem opOf_eq_of_div {op : Nibble} (h : w.toNat / 4096 = op.toNat) : opOf w = op :=
  BitVec.eq_of_toNat_eq ((toNat_opOf w).trans h)

/-- The trailing nibbles of family 0x8 that R129 names are none of the assigned ones. -/
theorem not_mem_assigned8 (h : n.toNat ∈ [0x8, 0x9, 0xA, 0xB, 0xC, 0xD, 0xF]) : n ∉ assigned8 := by
  have hassigned : ∀ c ∈ assigned8, c.toNat ∉ [0x8, 0x9, 0xA, 0xB, 0xC, 0xD, 0xF] := by decide
  exact fun hn => hassigned n hn h

theorem not_mem_assignedE (h : nn.toNat ∉ [0x9E, 0xA1]) : nn ∉ assignedE := fun hnn =>
  h (List.mem_map_of_mem (f := BitVec.toNat) hnn)

theorem not_mem_assignedF (h : nn.toNat ∉ [0x07, 0x0A, 0x15, 0x18, 0x1E, 0x29, 0x33, 0x55, 0x65]) :
    nn ∉ assignedF := fun hnn =>
  h (List.mem_map_of_mem (f := BitVec.toNat) hnn)

theorem unimplementedWord_family0 (hop : w.toNat / 4096 = 0x0) (hcls : w.toNat ≠ 0x00E0) (hret : w.toNat ≠ 0x00EE) :
    UnimplementedWord w := by
  have hw : 0x0#4 ++ nnnOf w = w := append_nnn_eq (opOf_eq_of_div hop)
  have hE0 : nnnOf w ≠ 0x0E0#12 := fun h => hcls (by rw [← hw, h]; rfl)
  have hEE : nnnOf w ≠ 0x0EE#12 := fun h => hret (by rw [← hw, h]; rfl)
  exact ⟨.unimpl0 (nnnOf w), by simp [Instr.wf, hE0, hEE], rfl, hw⟩

theorem unimplementedWord_family8 (hop : w.toNat / 4096 = 0x8)
    (hn : w.toNat % 16 ∈ [0x8, 0x9, 0xA, 0xB, 0xC, 0xD, 0xF]) : UnimplementedWord w := by
  have hsel : nOf w ∉ assigned8 := not_mem_assigned8 (toNat_nOf w ▸ hn)
  exact ⟨.unimpl8 (xOf w) (yOf w) (nOf w), by simp [Instr.wf, hsel], rfl, append_xyn_eq (opOf_eq_of_div hop) rfl⟩

theorem unimplementedWord_familyE (hop : w.toNat / 4096 = 0xE) (hnn : w.toNat % 256 ∉ [0x9E, 0xA1]) :
    UnimplementedWord w := by
  have hsel : nnOf w ∉ assignedE := not_mem_assignedE (toNat_nnOf w ▸ hnn)
  exact ⟨.unimplE (xOf w) (nnOf w), by simp [Instr.wf, hsel], rfl, append_xnn_eq (opOf_eq_of_div hop) rfl⟩

theorem unimplementedWord_familyF (hop : w.toNat / 4096 = 0xF)
    (hnn : w.toNat % 256 ∉ [0x07, 0x0A, 0x15, 0x18, 0x1E, 0x29, 0x33, 0x55, 0x65]) : UnimplementedWord w := by
  have hsel : nnOf w ∉ assignedF := not_mem_assignedF (toNat_nnOf w ▸ hnn)
  exact ⟨.unimplF (xOf w) (nnOf w), by simp [Instr.wf, hsel], rfl, append_xnn_eq (opOf_eq_of_div hop) rfl⟩

end UnimplementedWords

end Sys2Proof

namespace Sys2Proof.Machine

section UnimplementedEffect

variable {s : State} {w : Word}

/-- An instruction without a row has the one effect of R81. -/
theorem exec_of_row?_eq_none {i : Instr} (hrow : i.row? = none) : exec i s = .next (unimplemented i s) := by
  cases i
  case unimpl0 | unimpl8 | unimplE | unimplF => rfl
  all_goals cases hrow

/-- Such a word decodes to the instruction it encodes, so the diagnostic names the word itself. -/
theorem exec_decodeWord_of_unimplementedWord (hw : UnimplementedWord w) :
    ∃ t, exec (decodeWord w) s = .next t ∧ t.events = s.events ++ [.diagUnimplemented s.pc w] ∧
      t.pc = s.pc + 2 ∧ Frame { events := true } s t := by
  obtain ⟨i, hwf, hrow, rfl⟩ := hw
  rw [decodeWord_encode i hwf]
  exact ⟨unimplemented i s, exec_of_row?_eq_none hrow, rfl, rfl, (Frame.refl _ s).unimplemented rfl i⟩

/-- Settles O49: each of the four families of words has an instruction of its own `UNIMPL` row. -/
theorem unimplementedWordsOnlyReport : Obligations.UnimplementedWordsOnlyReport := by
  rintro s w (⟨hop, hcls, hret⟩ | ⟨hop, hn⟩ | ⟨hop, hnn⟩ | ⟨hop, hnn⟩)
  · exact exec_decodeWord_of_unimplementedWord (unimplementedWord_family0 hop hcls hret)
  · exact exec_decodeWord_of_unimplementedWord (unimplementedWord_family8 hop hn)
  · exact exec_decodeWord_of_unimplementedWord (unimplementedWord_familyE hop hnn)
  · exact exec_decodeWord_of_unimplementedWord (unimplementedWord_familyF hop hnn)

end UnimplementedEffect

/-! ### Clear, return, jump, call (R100, R101, R103, R104, R142) -/

section Flow

variable {s t : State} {nnn : Addr12}

/-- Settles O23: the new frame buffer is all zero, and the row of CLS frames the rest. -/
theorem clsClearsTheFrameBuffer : Obligations.ClsClearsTheFrameBuffer := by
  refine fun s => ⟨_, rfl, fun r c => ?_, rfl, rfl, exec_frame (i := .cls) rfl⟩
  simp [State.pixel]

theorem exec_ret_of_pop {a : Word} (hpop : s.pop = some (a, t)) : exec .ret s = .next (t.jump a) := by
  simp only [exec, execRet, hpop]

theorem exec_ret_of_pop_eq_none (hpop : s.pop = none) : exec .ret s = raiseFatal .stackUnderflow .ret s := by
  simp only [exec, execRet, hpop]

/-- Settles O24: RET is the pop of the stack, which answers by SP alone (R53). -/
theorem retPopsTheReturnAddress : Obligations.RetPopsTheReturnAddress := by
  refine fun s => ⟨fun k hk => ?_, fun hzero => exec_ret_of_pop_eq_none (State.pop_of_zero s hzero)⟩
  have hexec := exec_ret_of_pop (State.pop_of_succ s k hk)
  exact ⟨_, hexec, rfl, rfl, exec_frame hexec⟩

theorem exec_call_of_push (hpush : s.push (s.pc + 2#16) = some t) :
    exec (.call nnn) s = .next (t.jump (zext12 nnn)) := by
  simp only [exec, execCall, hpush]

theorem exec_call_of_push_eq_none (hpush : s.push (s.pc + 2#16) = none) :
    exec (.call nnn) s = raiseFatal .stackOverflow (.call nnn) s := by
  simp only [exec, execCall, hpush]

@[simp] theorem toNat_zext12 (nnn : Addr12) : (zext12 nnn).toNat = nnn.toNat :=
  BitVec.toNat_setWidth_of_le (by decide)

@[simp] theorem toNat_zext8 (b : Byte) : (zext8 b).toNat = b.toNat :=
  BitVec.toNat_setWidth_of_le (by decide)

/-- Settles O25: CALL is the push of the stack, which says what stands in the slot it took (R52). -/
theorem callPushesTheReturnAddress : Obligations.CallPushesTheReturnAddress := by
  refine fun s nnn => ⟨fun hlt => ?_, fun hfull => exec_call_of_push_eq_none (State.push_of_full s _ hfull)⟩
  obtain ⟨t, hpush⟩ : ∃ t, s.push (s.pc + 2#16) = some t := ⟨_, State.push_of_lt s _ hlt⟩
  obtain ⟨hsp, hslot, -⟩ := push_slots hpush
  have hexec : exec (.call nnn) s = .next (t.jump (zext12 nnn)) := exec_call_of_push hpush
  exact ⟨_, hexec, hslot, hsp, toNat_zext12 nnn, exec_frame hexec⟩

/-- The sum of a 12-bit address and a byte is at most 0x10FE, so no carry leaves the 16 bits (R142). -/
theorem toNat_zext12_add_zext8 (nnn : Addr12) (b : Byte) :
    (zext12 nnn + zext8 b).toNat = nnn.toNat + b.toNat := by
  have hnnn := nnn.isLt
  have hb := b.isLt
  rw [BitVec.toNat_add, toNat_zext12, toNat_zext8]
  exact Nat.mod_eq_of_lt (by omega)

/-- Settles O27: both jumps set PC and nothing else. -/
theorem jumpsGoToTheirTargets : Obligations.JumpsGoToTheirTargets := fun s nnn =>
  ⟨⟨_, rfl, toNat_zext12 nnn, exec_frame (i := .jp nnn) rfl⟩,
    ⟨_, rfl, toNat_zext12_add_zext8 nnn (s.getV 0#4), exec_frame (i := .jpV0 nnn) rfl⟩⟩

end Flow

end Sys2Proof.Machine

/-! SUPPORT and PROOFS for the statements about the skips on a register, load immediate and add immediate
(41_skip_load_add_family_3_to_7.md) and the skip of family 0x9 (R140). -/

namespace Sys2Proof.Machine

/-! ### Skips on a register (R110 to R112, R140) -/

section Skips

/-- A skip by `p`, for an instruction whose PC is stated with the two ways exchanged: SNE is the complement of SE (R111). -/
theorem exec_pc_of_skip_unless {s t : State} {i : Instr} {p : Prop} [Decidable p]
    (hclass : pcAfter i s = if p then s.pc + 2 else s.pc + 4) (h : exec i s = .next t) :
    t.pc = if ¬p then s.pc + 4 else s.pc + 2 := by
  rw [exec_pc h, hclass, ite_not]

/-- Settles O28: PC is what the class of each skip says, and the row of a skip writes nothing. -/
theorem immediateSkips : Obligations.ImmediateSkips := fun _ x nn =>
  ⟨⟨_, rfl, exec_pc (i := .seImm x nn) rfl, exec_frame (i := .seImm x nn) rfl⟩,
    ⟨_, rfl, exec_pc_of_skip_unless (i := .sneImm x nn) rfl rfl, exec_frame (i := .sneImm x nn) rfl⟩⟩

/-- Settles O29: as O28; the class of a skip on two registers does not depend on the trailing nibble. -/
theorem registerSkips : Obligations.RegisterSkips := fun _ x y n =>
  ⟨⟨_, rfl, exec_pc (i := .seReg x y n) rfl, exec_frame (i := .seReg x y n) rfl⟩,
    ⟨_, rfl, exec_pc_of_skip_unless (i := .sneReg x y n) rfl rfl, exec_frame (i := .sneReg x y n) rfl⟩⟩

end Skips

/-! ### Load and add immediate (R113, R114) -/

section Immediate

theorem State.getV_setV_self (s : State) (x : Nibble) (b : Byte) : (s.setV x b).getV x = b := by
  rw [State.getV_setV, if_pos rfl]

/-- Settles O30: the destination reads as the byte written to it, and an 8-bit sum is the sum modulo 256. -/
theorem immediateLoadAndAdd : Obligations.ImmediateLoadAndAdd := by
  refine fun s x nn =>
    ⟨⟨_, rfl, State.getV_setV_self s x nn, rfl, exec_frame (i := .ldImm x nn) rfl⟩,
      ⟨_, rfl, ?_, rfl, exec_frame (i := .addImm x nn) rfl⟩⟩
  calc ((s.setV x (s.getV x + nn)).advance.getV x).toNat
      = (s.getV x + nn).toNat := congrArg BitVec.toNat (State.getV_setV_self s x _)
    _ = ((s.getV x).toNat + nn.toNat) % 256 := BitVec.toNat_add ..

end Immediate

end Sys2Proof.Machine

/-! SUPPORT and PROOFS for the statements about the register arithmetic and logic of family 0x8
(42_alu_family_8.md). -/

namespace Sys2Proof.Machine

/-! ### Copy and logic (R120 to R123) -/

section CopyLogic

/-- An instruction that writes one register and goes on, its result given bit by bit. -/
theorem exec_bits_of_setV {s : State} {i : Instr} {x : Nibble} {b : Byte} {bit : Nat → Bool}
    (h : exec i s = .next (s.setV x b).advance) (hbits : ∀ k, b.getLsbD k = bit k) :
    ∃ t, exec i s = .next t ∧ (∀ k, (t.getV x).getLsbD k = bit k) ∧ t.pc = s.pc + 2 ∧
      Frame { regs := [x] } s t := by
  refine ⟨_, h, fun k => ?_, rfl, ((Frame.refl _ s).setV List.mem_cons_self b).advance⟩
  rw [State.advance_getV, State.getV_setV_self, hbits]

/-- Settles O31: the copy reads as its source, and each logic operation acts on every bit by itself. -/
theorem copyAndLogic : Obligations.CopyAndLogic := fun s x y =>
  ⟨⟨_, rfl, State.getV_setV_self s x (s.getV y), rfl, exec_frame (i := .ldReg x y) rfl⟩,
    exec_bits_of_setV rfl fun _ => BitVec.getLsbD_or,
    exec_bits_of_setV rfl fun _ => BitVec.getLsbD_and,
    exec_bits_of_setV rfl fun _ => BitVec.getLsbD_xor⟩

end CopyLogic

/-! ### The forms that write a result and a flag (R124 to R128, R130) -/

section ResultAndFlag

/-- The result stands in its register unless that is VF, and the flag, written last, in VF (R130; log 9). -/
theorem exec_of_setResultFlag {s : State} {i : Instr} {x : Nibble} {res : Byte} {f : Bool} {r v : Nat}
    (h : exec i s = .next (s.setResultFlag params.vfWriteOrder x res f).advance)
    (hres : res.toNat = r) (hflag : (flagByte f).toNat = v) :
    ∃ t, exec i s = .next t ∧ (x ≠ 15#4 → (t.getV x).toNat = r) ∧ (t.getV 15#4).toNat = v ∧
      t.pc = s.pc + 2 ∧ Frame { regs := [x, 15#4] } s t := by
  rw [params_vfWriteOrder] at h
  refine ⟨_, h, fun hx => ?_, ?_, rfl, ((Frame.refl _ s).setResultFlag (by simp) (by simp) _ res f).advance⟩
  · rw [State.advance_getV, State.getV_setResultFlag_flagLast, if_neg hx, if_pos rfl, hres]
  · rw [State.advance_getV, State.getV_setResultFlag_flagLast, if_pos rfl, hflag]

theorem toNat_flagByte_carryFlag (a b : Byte) :
    (flagByte (carryFlag a b)).toNat = if a.toNat + b.toNat > 255 then 1 else 0 := by
  rw [toNat_flagByte, carryFlag, if_congr decide_eq_true_iff rfl rfl]

theorem toNat_flagByte_greaterFlag (a b : Byte) :
    (flagByte (greaterFlag a b)).toNat = if a.toNat > b.toNat then 1 else 0 := by
  rw [toNat_flagByte, greaterFlag, if_congr decide_eq_true_iff rfl rfl]

/-- A flag taken from one bit of a byte is that binary digit. -/
theorem toNat_flagByte_getLsbD (a : Byte) (k : Nat) : (flagByte (a.getLsbD k)).toNat = a.toNat / 2 ^ k % 2 := by
  rw [← Nat.toNat_testBit, ← BitVec.testBit_toNat]
  cases a.toNat.testBit k <;> rfl

theorem toNat_flagByte_shiftOutRight (a : Byte) : (flagByte (shiftOutRight a)).toNat = a.toNat % 2 := by
  rw [shiftOutRight, toNat_flagByte_getLsbD, Nat.pow_zero, Nat.div_one]

theorem toNat_flagByte_shiftOutLeft (a : Byte) : (flagByte (shiftOutLeft a)).toNat = a.toNat / 128 := by
  have ha := a.isLt
  rw [shiftOutLeft, toNat_flagByte_getLsbD]
  omega

/-- The difference modulo 256, with the 256 borrowed before the subtrahend is taken (R131). -/
theorem toNat_sub_byte (a b : Byte) : (a - b).toNat = (a.toNat + 256 - b.toNat) % 256 := by
  have hb := b.isLt
  rw [BitVec.toNat_sub]
  omega

theorem toNat_shiftRight_one (a : Byte) : (a >>> 1).toNat = a.toNat / 2 := by
  rw [BitVec.toNat_ushiftRight, Nat.shiftRight_one]

theorem toNat_shiftLeft_one (a : Byte) : (a <<< 1).toNat = a.toNat * 2 % 256 := by
  rw [BitVec.toNat_shiftLeft, Nat.shiftLeft_eq, Nat.pow_one]

/-- Settles O32: the sum modulo 256 is the result, the carry the flag. -/
theorem addWritesSumAndCarry : Obligations.AddWritesSumAndCarry := fun s x y =>
  exec_of_setResultFlag rfl (BitVec.toNat_add ..) (toNat_flagByte_carryFlag (s.getV x) (s.getV y))

/-- Settles O33: SUBN is SUB with the operands exchanged, in the difference and in the comparison. -/
theorem subtractionsWriteDifferenceAndFlag : Obligations.SubtractionsWriteDifferenceAndFlag := fun s x y =>
  ⟨exec_of_setResultFlag rfl (toNat_sub_byte (s.getV x) (s.getV y)) (toNat_flagByte_greaterFlag ..),
    exec_of_setResultFlag rfl (toNat_sub_byte (s.getV y) (s.getV x)) (toNat_flagByte_greaterFlag ..)⟩

/-- Settles O34: a shift by one halves or doubles modulo 256, and the flag is the lowest or the highest bit of `V[x]`;
neither shift reads Y. -/
theorem shiftsWriteResultAndBitShiftedOut : Obligations.ShiftsWriteResultAndBitShiftedOut := fun s x _ =>
  ⟨exec_of_setResultFlag rfl (toNat_shiftRight_one (s.getV x)) (toNat_flagByte_shiftOutRight _),
    exec_of_setResultFlag rfl (toNat_shiftLeft_one (s.getV x)) (toNat_flagByte_shiftOutLeft _)⟩

end ResultAndFlag

end Sys2Proof.Machine

/-! PROOFS for the statements about load index and random byte (43_sne_index_jump_rnd_family_9_to_C.md). -/

namespace Sys2Proof.Machine

/-! ### Load index and random byte (R141, R143) -/

section IndexAndRandom

/-- Settles O35: I reads as the zero-extended address, and the row of LD I writes I alone. -/
theorem loadIndex : Obligations.LoadIndex := fun _ nnn =>
  ⟨_, rfl, toNat_zext12 nnn, exec_pc (i := .ldI nnn) rfl, exec_frame (i := .ldI nnn) rfl⟩

/-- Settles O36: the byte written is the conjunction of mask and random byte, whichever byte `s.env` holds. -/
theorem randomByteUnderMask : Obligations.RandomByteUnderMask := fun _ _ _ =>
  exec_bits_of_setV rfl fun _ => BitVec.getLsbD_and

end IndexAndRandom

end Sys2Proof.Machine

/-! SUPPORT and PROOFS for the statements about the sprite draw (44_draw_family_D.md). -/

namespace Sys2Proof.Machine

section Draw

variable {s t : State} {x y n : Nibble}

/-! ### When a draw completes (R49) -/

/-- The check of DRW, on the number of sprite rows as the spec writes it. -/
theorem inBounds_drawCount_iff (s : State) (y n : Nibble) :
    inBounds (s.addrI 0) (s.drawCount y n) = true ↔
      min n.toNat (32 - (s.getV y).toNat % 32) = 0 ∨
        s.i.toNat + min n.toNat (32 - (s.getV y).toNat % 32) - 1 < 4096 := by
  rw [inBounds_iff, State.addrI_eq, State.drawCount, State.drawY]
  omega

theorem exists_exec_drw (h : inBounds (s.addrI 0) (s.drawCount y n) = true) :
    ∃ t, exec (.drw x y n) s = .next t := ⟨_, if_pos h⟩

theorem exec_drw_of_not_inBounds (h : ¬ inBounds (s.addrI 0) (s.drawCount y n) = true) :
    exec (.drw x y n) s = raiseFatal .memOutOfBounds (.drw x y n) s := if_neg h

/-! ### What a draw toggles, pixel by pixel (R150 to R154) -/

/-- A pixel is toggled exactly where the mask of its screen row's sprite byte is set. -/
theorem toggles_eq_getMsbD_rowMask (s : State) (x y n : Nibble) (r : Fin 32) (c : Fin 64) :
    toggles s x y n r c =
      (decide (s.drawY y ≤ r.val ∧ r.val < s.drawY y + s.drawCount y n) &&
        (rowMask (Memory.read s.mem (s.addrI 0 + (r.val - s.drawY y))) (s.drawX x)).getMsbD c.val) := by
  have hrow : (s.drawY y ≤ r.val ∧ r.val < s.drawY y + s.drawCount y n) ↔
      s.drawY y ≤ r.val ∧ r.val < s.drawY y + n.toNat := by
    rw [State.drawCount]; omega
  rw [getMsbD_rowMask _ _ _ c.isLt, ← Bool.and_assoc, ← Bool.decide_and]
  simp only [hrow, and_assoc]
  rfl

theorem exec_drw_fb (h : exec (.drw x y n) s = .next t) : t.fb = (s.drawn x y n).1 := by
  obtain ⟨-, rfl⟩ := exec_drw_eq_next h; rfl

/-- Every pixel after a draw (R150). -/
theorem exec_drw_pixel (h : exec (.drw x y n) s = .next t) (r : Fin 32) (c : Fin 64) :
    t.pixel r c = (s.pixel r c ^^ toggles s x y n r c) := by
  rw [toggles_eq_getMsbD_rowMask, State.pixel, exec_drw_fb h, State.drawn, getElem_drawRows _ _ _ _ _ _ _ r.isLt]
  split
  · next hrow => rw [BitVec.getMsbD_xor, decide_eq_true hrow, Bool.true_and]; rfl
  · next hrow => rw [decide_eq_false hrow, Bool.false_and, Bool.xor_false]; rfl

/-- Two rows meet exactly where both have a pixel. -/
theorem and_ne_zero_iff_exists_getMsbD {w : Nat} (a b : BitVec w) :
    a &&& b ≠ 0#w ↔ ∃ c : Fin w, a.getMsbD c.val = true ∧ b.getMsbD c.val = true := by
  constructor
  · intro hne
    by_contra hnone
    refine hne (BitVec.eq_of_getMsbD_eq fun c hc => ?_)
    rw [BitVec.getMsbD_and, BitVec.getMsbD_zero, ← Bool.not_eq_true, Bool.and_eq_true]
    exact fun hboth => hnone ⟨⟨c, hc⟩, hboth⟩
  · rintro ⟨c, ha, hb⟩ hzero
    have hc := congrArg (fun row : BitVec w => row.getMsbD c.val) hzero
    simp [ha, hb] at hc

/-- The collision a draw reports: a pixel that is set is toggled (R153). -/
theorem drawn_collision_iff (s : State) (x y n : Nibble) :
    (s.drawn x y n).2 = true ↔ ∃ r c, toggles s x y n r c = true ∧ s.pixel r c = true := by
  have hclip : s.drawY y + s.drawCount y n ≤ 32 := by
    have : s.drawY y < 32 := Nat.mod_lt _ (by decide)
    rw [State.drawCount]; omega
  simp only [State.drawn, drawRows_collision _ _ _ _ _ _ hclip, and_ne_zero_iff_exists_getMsbD,
    toggles_eq_getMsbD_rowMask, Bool.and_eq_true, decide_eq_true_eq]
  constructor
  · rintro ⟨k, hk, c, hset, hmask⟩
    exact ⟨⟨s.drawY y + k, by omega⟩, c, ⟨by dsimp only; omega, by rwa [Nat.add_sub_cancel_left]⟩, hset⟩
  · rintro ⟨r, c, ⟨⟨hlo, hhi⟩, hmask⟩, hset⟩
    refine ⟨r.val - s.drawY y, by omega, c, ?_, hmask⟩
    simpa only [State.pixel, Nat.add_sub_cancel' hlo] using hset

/-- VF after a draw (R153; log 10). -/
theorem exec_drw_vf_eq_one_iff (h : exec (.drw x y n) s = .next t) :
    t.getV 15#4 = 0x01#8 ↔ ∃ r c, toggles s x y n r c = true ∧ s.pixel r c = true := by
  rw [← drawn_collision_iff]
  obtain ⟨-, rfl⟩ := exec_drw_eq_next h
  rw [State.advance_getV, State.emit_getV, State.getV_setFlag, if_pos rfl]
  cases (s.drawn x y n).2 <;> decide

theorem exec_drw_events (h : exec (.drw x y n) s = .next t) : t.events = s.events ++ [.present t.fb] := by
  obtain ⟨-, rfl⟩ := exec_drw_eq_next h; rfl

/-- A pixel goes from 1 to 0 exactly when it is set and toggled. -/
theorem exec_drw_exists_erased_iff (h : exec (.drw x y n) s = .next t) :
    (∃ r c, s.pixel r c = true ∧ t.pixel r c = false) ↔ t.getV 15#4 = 0x01#8 := by
  rw [exec_drw_vf_eq_one_iff h]
  refine exists_congr fun r => exists_congr fun c => ?_
  rw [exec_drw_pixel h]
  cases s.pixel r c <;> simp

/-- Settles O37: the check decides between the two clauses; a completed draw is described pixel by pixel. -/
theorem drawTogglesPixelsAndReportsCollision : Obligations.DrawTogglesPixelsAndReportsCollision := by
  intro s x y n
  rw [← inBounds_drawCount_iff]
  refine ⟨fun hin => ?_, fun ⟨hrows, hout⟩ => ?_⟩
  · obtain ⟨t, h⟩ := exists_exec_drw (x := x) hin
    refine ⟨t, h, exec_drw_pixel h, ?_, exec_drw_events h, exec_pc h, exec_frame h⟩
    rw [exec_drw_exists_erased_iff h]
    rcases exec_vf_of_writesFlag rfl h with hvf | hvf
    · exact .inr ⟨by rw [hvf]; decide, hvf⟩
    · exact .inl ⟨hvf, hvf⟩
  · exact exec_drw_of_not_inBounds (by rw [inBounds_drawCount_iff]; omega)

/-! ### Drawing twice (R156) -/

/-- What a draw toggles depends on the start position, I and the sprite bytes alone. -/
theorem toggles_congr {s s' : State} {x y x' y' n : Nibble} (hi : s'.i = s.i)
    (hx : (s'.getV x').toNat % 64 = (s.getV x).toNat % 64) (hy : (s'.getV y').toNat % 32 = (s.getV y).toNat % 32)
    (hmem : ∀ k < n.toNat, Memory.read s'.mem (s.i.toNat + k) = Memory.read s.mem (s.i.toNat + k))
    (r : Fin 32) (c : Fin 64) : toggles s' x' y' n r c = toggles s x y n r c := by
  rw [Bool.eq_iff_iff]
  simp only [toggles, hi, hx, hy, Bool.and_eq_true, decide_eq_true_eq]
  refine and_congr_right fun ⟨_, hlast, _⟩ => ?_
  rw [hmem _ (by omega)]

/-- Frame buffers with the same pixels are equal. -/
theorem fb_eq_of_pixel_eq (h : ∀ r c, t.pixel r c = s.pixel r c) : t.fb = s.fb :=
  Vector.ext fun r hr => BitVec.eq_of_getMsbD_eq fun c hc => h ⟨r, hr⟩ ⟨c, hc⟩

/-- Settles O38: the second draw toggles the pixels of the first, and toggling a pixel twice leaves it as it was. -/
theorem drawingTwiceRestoresTheFrameBuffer : Obligations.DrawingTwiceRestoresTheFrameBuffer := by
  intro s t s' x y x' y' n hfirst hfb hi hx hy hmem
  have htoggles := toggles_congr hi hx hy hmem
  have hpixel : ∀ r c, s'.pixel r c = t.pixel r c := fun r c => by rw [State.pixel, State.pixel, hfb]
  have hin : inBounds (s'.addrI 0) (s'.drawCount y' n) = true := by
    rw [inBounds_drawCount_iff, hi, hy, ← inBounds_drawCount_iff]
    exact (exec_drw_eq_next hfirst).1
  obtain ⟨u, hsecond⟩ := exists_exec_drw (x := x') hin
  refine ⟨u, hsecond, fb_eq_of_pixel_eq fun r c => ?_, exec_drw_events hsecond, ?_⟩
  · calc u.pixel r c
        = (s'.pixel r c ^^ toggles s' x' y' n r c) := exec_drw_pixel hsecond r c
      _ = ((s.pixel r c ^^ toggles s x y n r c) ^^ toggles s x y n r c) := by
          rw [htoggles, hpixel, exec_drw_pixel hfirst]
      _ = s.pixel r c := by rw [Bool.xor_assoc, Bool.xor_self, Bool.xor_false]
  · simpa only [htoggles, hpixel] using exec_drw_vf_eq_one_iff hsecond

end Draw

end Sys2Proof.Machine

/-! PROOFS for the statement about the skips on a key (45_keypad_family_E.md). -/

namespace Sys2Proof.Machine

/-! ### Skips on a key (R160, R161) -/

section KeySkips

/-- Settles O39: neither skip has a check to fail, so each completes; PC is what its class says of the oracle's answer for
the whole byte of the register, and the row of a skip writes nothing. -/
theorem keySkips : Obligations.KeySkips := fun _ x =>
  ⟨⟨_, rfl, exec_pc (i := .skp x) rfl, exec_frame (i := .skp x) rfl⟩,
    ⟨_, rfl, exec_pc (i := .sknp x) rfl, exec_frame (i := .sknp x) rfl⟩⟩

end KeySkips

end Sys2Proof.Machine

/-! SUPPORT and PROOFS for the statements about family 0xF: timers, key wait, index arithmetic, font, decimal digits,
register block (46_misc_family_F.md). -/

namespace Sys2Proof.Machine

/-! ### Timers (R170, R172, R173) -/

section Timers

/-- Settles O40: the register reads as the DT written to it, each timer as the register; the rows frame the rest. -/
theorem timerLoadsAndStores : Obligations.TimerLoadsAndStores := fun s x =>
  ⟨⟨_, rfl, State.getV_setV_self s x s.dt, rfl, exec_frame (i := .ldFromDt x) rfl⟩,
    ⟨_, rfl, rfl, rfl, exec_frame (i := .ldDt x) rfl⟩,
    ⟨_, rfl, rfl, rfl, exec_frame (i := .ldSt x) rfl⟩⟩

end Timers

/-! ### The key wait (R171) -/

section KeyWait

variable {s : State} {x : Nibble}

/-- `Env.mem_pressed` for a code given as a number below 16. -/
theorem Env.ofNat_mem_pressed_iff (e : Env) {k : Nat} (hk : k < 16) :
    BitVec.ofNat 4 k ∈ e.pressed ↔ e.keys.getLsbD k = true := by
  rw [Env.mem_pressed, BitVec.toNat_ofNat, Nat.mod_eq_of_lt hk]

/-- The wait holds while no key is down. -/
theorem exec_ldKey_of_pressed_eq_nil (h : s.env.pressed = []) : exec (.ldKey x) s = .next s := by
  rw [exec, execLdKey, (Env.chosenKey_eq_none s.env).2 h, keyWait]

/-- The wait ends with the code of the key reported. -/
theorem exec_ldKey_of_chosenKey {code : Nibble} (h : s.env.chosenKey = some code) :
    exec (.ldKey x) s = .next (s.setV x (code.setWidth 8)).advance := by
  rw [exec, execLdKey, h, keyWait]

theorem toNat_getV_setV_code (s : State) (x code : Nibble) :
    ((s.setV x (code.setWidth 8)).advance.getV x).toNat = code.toNat := by
  rw [State.advance_getV, State.getV_setV_self, BitVec.toNat_setWidth_of_le (by decide)]

/-- Settles O41: the key choice is `none` with no key down, else one that is down, and any of them for some draw. -/
theorem keyWaitHoldsOrReportsAPressedKey : Obligations.KeyWaitHoldsOrReportsAPressedKey := by
  refine fun s x => ⟨fun hup => ?_, fun ⟨k, hk, hdown⟩ => ?_, fun k hk hdown => ?_⟩
  · refine exec_ldKey_of_pressed_eq_nil (List.eq_nil_iff_forall_not_mem.2 fun code hcode => ?_)
    rw [Env.mem_pressed, hup _ code.isLt] at hcode
    cases hcode
  · have hsome : s.env.pressed ≠ [] := List.ne_nil_of_mem ((s.env.ofNat_mem_pressed_iff hk).2 hdown)
    obtain ⟨code, hcode⟩ := Option.ne_none_iff_exists'.1 (mt (Env.chosenKey_eq_none s.env).1 hsome)
    have hexec := exec_ldKey_of_chosenKey (x := x) hcode
    exact ⟨_, code.toNat, hexec, code.isLt, (Env.mem_pressed _ _).1 (Env.chosenKey_mem _ _ hcode),
      toNat_getV_setV_code s x code, rfl, exec_frame hexec⟩
  · obtain ⟨p, hp⟩ := s.env.exists_pick _ ((s.env.ofNat_mem_pressed_iff hk).2 hdown)
    refine ⟨p, _, exec_ldKey_of_chosenKey hp, ?_⟩
    rw [toNat_getV_setV_code, BitVec.toNat_ofNat, Nat.mod_eq_of_lt hk]

end KeyWait

/-! ### Index arithmetic and the font (R174, R175) -/

section IndexAndFont

theorem toNat_add_zext8 (i : Word) (b : Byte) : (i + zext8 b).toNat = (i.toNat + b.toNat) % 65536 := by
  rw [BitVec.toNat_add, toNat_zext8]

theorem toNat_flagByte_indexFlag (i : Word) (b : Byte) :
    (flagByte (indexFlag i b)).toNat = if i.toNat + b.toNat > 0x0FFF then 1 else 0 := by
  rw [toNat_flagByte, indexFlag, if_congr decide_eq_true_iff rfl rfl]

/-- Settles O42: the flag is taken from the sum before it wraps, and `V[x]` is read before VF is written. -/
theorem addToIndex : Obligations.AddToIndex := fun s x =>
  ⟨_, rfl, toNat_add_zext8 s.i (s.getV x),
    (congrArg BitVec.toNat (State.getV_setV_self _ vf _)).trans (toNat_flagByte_indexFlag s.i (s.getV x)), rfl,
    exec_frame (i := .addI x) rfl⟩

/-- A glyph address lies below 0x200 for every base that R41 allows, so the 16 bits hold it. -/
theorem toNat_glyphAddr {p : Params} (hp : p.wf = true) (b : Byte) :
    (glyphAddr p b).toNat = p.fontBase + 5 * (b.toNat % 16) := by
  have hbase : p.fontBase + 80 ≤ 0x200 := by
    rw [Params.wf, Bool.and_eq_true, decide_eq_true_iff] at hp
    exact hp.2
  rw [glyphAddr, BitVec.toNat_ofNat]
  exact Nat.mod_eq_of_lt (by omega)

/-- Settles O43: I reads as the glyph address, which the chosen parameters keep below 0x200. -/
theorem fontAddress : Obligations.FontAddress := fun s x =>
  ⟨_, rfl, toNat_glyphAddr params_wf (s.getV x), rfl, exec_frame (i := .ldFont x) rfl⟩

end IndexAndFont

/-! ### Decimal digits and the register block (R176, R177, R178) -/

section BytesAtIndex

variable {s t : State} {x : Nibble}

theorem inBounds_addrI_zero_iff (s : State) (n : Nat) :
    inBounds (s.addrI 0) (n + 1) = true ↔ s.i.toNat + n < 4096 := by
  rw [inBounds_iff, State.addrI_eq]
  omega

/-- An access to the bytes at I, …, I + n completes when the last of them is below 4096, and is MEM_OUT_OF_BOUNDS
otherwise (R49). -/
theorem exec_of_checked {i : Instr} {n : Nat}
    (h : exec i s = if inBounds (s.addrI 0) (n + 1) then .next t else raiseFatal .memOutOfBounds i s) :
    (s.i.toNat + n < 4096 → exec i s = .next t) ∧
      (4096 ≤ s.i.toNat + n → exec i s = raiseFatal .memOutOfBounds i s) := by
  rw [h]
  exact ⟨fun hin => if_pos ((inBounds_addrI_zero_iff s n).2 hin),
    fun hout => if_neg fun hin => Nat.not_lt_of_le hout ((inBounds_addrI_zero_iff s n).1 hin)⟩

/-- Each digit fits its byte. -/
theorem map_toNat_bcdDigits (b : Byte) :
    (bcdDigits b).map BitVec.toNat = [b.toNat / 100, b.toNat / 10 % 10, b.toNat % 10] := by
  have hb := b.isLt
  have hdigit {n : Nat} (hn : n < 256) : (BitVec.ofNat 8 n).toNat = n :=
    (BitVec.toNat_ofNat ..).trans (Nat.mod_eq_of_lt hn)
  simp only [bcdDigits, List.map_cons, List.map_nil]
  rw [hdigit (by omega), hdigit (by omega), hdigit (by omega)]

/-- What `LD B, Vx` leaves at I + j. -/
theorem exec_ldBcd_read (h : exec (.ldBcd x) s = .next t) (j : Nat) (hj : j < 3) :
    (Memory.read t.mem (s.i.toNat + j)).toNat =
      [(s.getV x).toNat / 100, (s.getV x).toNat / 10 % 10, (s.getV x).toNat % 10][j] := by
  obtain ⟨-, rfl⟩ := exec_ldBcd_eq_next h
  calc (Memory.read (Memory.writeBytes s.mem (s.addrI 0) (bcdDigits (s.getV x))) (s.addrI 0 + j)).toNat
      = ((bcdDigits (s.getV x))[j]'hj).toNat := by rw [Memory.read_writeBytes_inside _ _ _ _ hj]
    _ = ((bcdDigits (s.getV x)).map BitVec.toNat)[j]'(by simpa using hj) := (List.getElem_map ..).symm
    _ = _ := by simp only [map_toNat_bcdDigits]

/-- Settles O44: the check decides between the two clauses; the stored bytes are the digits. -/
theorem decimalDigitsStored : Obligations.DecimalDigitsStored := by
  intro s x
  obtain ⟨hnext, hfault⟩ := exec_of_checked (i := .ldBcd x) (n := 2) rfl
  refine ⟨fun hin => ?_, hfault⟩
  have hread := exec_ldBcd_read (hnext hin)
  exact ⟨_, hnext hin, hread 0 (by decide), hread 1 (by decide), hread 2 (by decide), rfl, exec_frame (hnext hin)⟩

/-- The check and the result of `LD [I], Vx`, with I as it was: `LOADSTORE_INCREMENTS_I` is at the spec's default
(log 11). -/
theorem exec_storeRegs_eq (s : State) (x : Nibble) :
    exec (.storeRegs x) s = if inBounds (s.addrI 0) (x.toNat + 1) then
      .next (s.store (s.addrI 0) (s.block x)).advance else raiseFatal .memOutOfBounds (.storeRegs x) s := rfl

/-- The check and the result of `LD Vx, [I]`, with I as it was, as for the store (log 11). -/
theorem exec_loadRegs_eq (s : State) (x : Nibble) :
    exec (.loadRegs x) s = if inBounds (s.addrI 0) (x.toNat + 1) then
      .next (s.setBlock x).advance else raiseFatal .memOutOfBounds (.loadRegs x) s := rfl

/-- What `LD [I], Vx` leaves at I + r. -/
theorem exec_storeRegs_read (h : exec (.storeRegs x) s = .next t) {r : Nibble} (hr : r.toNat ≤ x.toNat) :
    Memory.read t.mem (s.i.toNat + r.toNat) = s.getV r := by
  obtain ⟨-, rfl⟩ := exec_storeRegs_eq_next h
  have hlen : r.toNat < (s.block x).length := by rw [State.length_block]; omega
  calc Memory.read (Memory.writeBytes s.mem (s.addrI 0) (s.block x)) (s.addrI 0 + r.toNat)
      = (s.block x)[r.toNat] := Memory.read_writeBytes_inside _ _ _ _ hlen
    _ = s.getV r := by rw [State.getElem_block, BitVec.ofNat_toNat, BitVec.setWidth_eq]

/-- Settles O45: the check decides between the two clauses; the stored bytes are the registers. -/
theorem registerBlockStored : Obligations.RegisterBlockStored := by
  intro s x
  obtain ⟨hnext, hfault⟩ := exec_of_checked (exec_storeRegs_eq s x)
  refine ⟨fun hin => ?_, hfault⟩
  exact ⟨_, hnext hin, fun _ hr => exec_storeRegs_read (hnext hin) hr, rfl, exec_frame (hnext hin)⟩

/-- What `LD Vx, [I]` leaves in V0..Vx. -/
theorem exec_loadRegs_getV (h : exec (.loadRegs x) s = .next t) {r : Nibble} (hr : r.toNat ≤ x.toNat) :
    t.getV r = Memory.read s.mem (s.i.toNat + r.toNat) := by
  obtain ⟨-, rfl⟩ := exec_loadRegs_eq_next h
  rw [State.advance_getV, State.getV_setBlock, if_pos hr, State.addrI_eq]

/-- `LD Vx, [I]` leaves the registers above Vx alone. -/
theorem exec_loadRegs_getV_above (h : exec (.loadRegs x) s = .next t) {r : Nibble} (hr : x.toNat < r.toNat) :
    t.getV r = s.getV r := by
  obtain ⟨-, rfl⟩ := exec_loadRegs_eq_next h
  rw [State.advance_getV, State.getV_setBlock, if_neg (Nat.not_le_of_lt hr)]

/-- Settles O46: the check decides between the two clauses; a loaded block is described register by register. -/
theorem registerBlockLoaded : Obligations.RegisterBlockLoaded := by
  intro s x
  obtain ⟨hnext, hfault⟩ := exec_of_checked (exec_loadRegs_eq s x)
  refine ⟨fun hin => ?_, hfault⟩
  exact ⟨_, hnext hin, fun _ hr => exec_loadRegs_getV (hnext hin) hr,
    fun _ hr => exec_loadRegs_getV_above (hnext hin) hr, rfl, exec_frame (hnext hin)⟩

/-- Settles O47: the store leaves I alone, so the load passes the check that the store passed, and reads each byte where
the store put it. -/
theorem storedBlockLoadsBack : Obligations.StoredBlockLoadsBack := by
  intro s t s' x hstore hmem hi
  obtain ⟨hin, -⟩ := exec_storeRegs_eq_next hstore
  have hi' : s'.i = s.i := hi.trans ((exec_frame hstore).index rfl)
  have hload : exec (.loadRegs x) s' = .next (s'.setBlock x).advance := by
    refine (exec_of_checked (exec_loadRegs_eq s' x)).1 ?_
    rw [hi', ← inBounds_addrI_zero_iff]
    exact hin
  refine ⟨_, hload, fun r hr => ?_⟩
  calc (s'.setBlock x).advance.getV r
      = Memory.read s'.mem (s'.i.toNat + r.toNat) := exec_loadRegs_getV hload hr
    _ = Memory.read t.mem (s.i.toNat + r.toNat) := by rw [hmem, hi']
    _ = s.getV r := exec_storeRegs_read hstore hr

end BytesAtIndex

end Sys2Proof.Machine

/-! SUPPORT and PROOFS for the statements about fatal conditions and the timer tick (60_exceptions.md). -/

namespace Sys2Proof.Machine

/-! ### What an instruction answers, by the table of fatal causes (R201, R204) -/

section FatalConditions

variable {i : Instr} {s : State}

/-- An instruction answers as the table says: it completes without a cause, and raises the cause it has. -/
def AnswersAsTable (i : Instr) (s : State) : Prop :=
  (raises i s = none ∧ ∃ t, exec i s = .next t) ∨ ∃ c, raises i s = some c ∧ exec i s = raiseFatal c i s

/-- For an instruction with one cause: the condition of its row decides between the two answers. -/
theorem answersAsTable_of_row {p : Prop} [Decidable p] {c : FatalCause}
    (hrow : raises i s = if p then some c else none) (hnext : ¬p → ∃ t, exec i s = .next t)
    (hraise : p → exec i s = raiseFatal c i s) : AnswersAsTable i s := by
  by_cases h : p
  · exact .inr ⟨c, hrow.trans (if_pos h), hraise h⟩
  · exact .inl ⟨hrow.trans (if_neg h), hnext h⟩

theorem answersAsTable_ret (s : State) : AnswersAsTable .ret s := by
  refine answersAsTable_of_row rfl (fun hsp => ?_) fun hsp =>
    exec_ret_of_pop_eq_none (State.pop_of_zero s (congrArg Fin.val hsp))
  obtain ⟨k, hk⟩ : ∃ k, s.sp.val = k + 1 := Nat.exists_eq_succ_of_ne_zero fun h => hsp (Fin.ext h)
  exact ⟨_, exec_ret_of_pop (State.pop_of_succ s k hk)⟩

theorem answersAsTable_call (nnn : Addr12) (s : State) : AnswersAsTable (.call nnn) s := by
  refine answersAsTable_of_row rfl (fun hsp => ?_) fun hsp =>
    exec_call_of_push_eq_none (State.push_of_full s _ (congrArg Fin.val hsp))
  have hlt : s.sp.val < 24 := Nat.lt_of_le_of_ne (Nat.le_of_lt_succ s.sp.isLt) fun h => hsp (Fin.ext h)
  exact ⟨_, exec_call_of_push (State.push_of_lt s _ hlt)⟩

/-- The row of DRW is the complement of its check (R49). -/
theorem answersAsTable_drw (x y n : Nibble) (s : State) : AnswersAsTable (.drw x y n) s := by
  refine answersAsTable_of_row rfl (fun hin => ?_) fun hout => ?_
  · refine exists_exec_drw ((inBounds_drawCount_iff s y n).2 ?_)
    omega
  · refine exec_drw_of_not_inBounds fun hin => ?_
    have := (inBounds_drawCount_iff s y n).1 hin
    omega

/-- An access to the bytes at I, …, I + n, with the row of R201 for it. -/
theorem answersAsTable_of_checked {t : State} {n : Nat}
    (hrow : raises i s = if 4096 ≤ s.i.toNat + n then some .memOutOfBounds else none)
    (hexec : exec i s = if inBounds (s.addrI 0) (n + 1) then .next t else raiseFatal .memOutOfBounds i s) :
    AnswersAsTable i s :=
  answersAsTable_of_row hrow (fun hin => ⟨t, (exec_of_checked hexec).1 (Nat.lt_of_not_le hin)⟩)
    (exec_of_checked hexec).2

/-- Six instructions have a row with a condition; the other 32 have no cause and complete in every state. -/
theorem answersAsTable (i : Instr) (s : State) : AnswersAsTable i s := by
  cases i
  case ret => exact answersAsTable_ret s
  case call nnn => exact answersAsTable_call nnn s
  case drw x y n => exact answersAsTable_drw x y n s
  case ldBcd => exact answersAsTable_of_checked (n := 2) rfl rfl
  case storeRegs x => exact answersAsTable_of_checked rfl (exec_storeRegs_eq s x)
  case loadRegs x => exact answersAsTable_of_checked rfl (exec_loadRegs_eq s x)
  all_goals exact .inl ⟨rfl, _, rfl⟩

/-- Settles O10: an instruction that answers as the table says completes where the table gives it no cause. -/
theorem everyInstructionCompletesUnlessItRaises : Obligations.EveryInstructionCompletesUnlessItRaises := by
  intro i s hnone
  rcases answersAsTable i s with ⟨-, hnext⟩ | ⟨c, hsome, -⟩
  · exact hnext
  · cases hnone.symm.trans hsome

/-- Settles O11: the cause raised is the table's, and raising latches it, reports it and leaves the rest alone. -/
theorem fatalConditionsArePrecise : Obligations.FatalConditionsArePrecise := by
  intro i s c hc
  rcases answersAsTable i s with ⟨hnone, -⟩ | ⟨c', hsome, hraise⟩
  · cases hnone.symm.trans hc
  · cases hsome.symm.trans hc
    exact hraise

end FatalConditions

/-! ### The timer tick (R209) -/

section TimerTick

/-- One tick is the countdown by one, which stops at zero. -/
theorem toNat_tickDown (t : Byte) : (tickDown t).toNat = if 0 < t.toNat then t.toNat - 1 else 0 := by
  have hcount : (tickDown t).toNat = t.toNat - 1 := toNat_countDown 1 t
  split <;> omega

theorem Frame.timerTick {w : Writes} {s t : State} (h : Frame w s t) (hdt : w.dt = true) (hst : w.st = true) :
    Frame w s t.timerTick :=
  (h.setDt hdt (tickDown t.dt)).setSt hst (tickDown t.st)

/-- Settles O53: the tick is total, moves each timer by `tickDown`, and writes nothing but the two timers. -/
theorem ticksCountDownAndStopAtZero : Obligations.TicksCountDownAndStopAtZero := fun s =>
  ⟨s.timerTick, rfl, toNat_tickDown s.dt, toNat_tickDown s.st, rfl, (Frame.refl _ s).timerTick rfl rfl⟩

end TimerTick

end Sys2Proof.Machine

/-! SUPPORT and PROOFS for the statements about Load, the enabling condition and the run
(70_reset_and_hazards.md). -/

namespace Sys2Proof.Machine

/-! ### Load after Reset (R243, R244) -/

section LoadAfterReset

variable {s t : State} {bytes : List Byte}

theorem State.isReset_hostReset (s : State) : s.hostReset.isReset = true := decide_eq_true rfl

/-- After Reset, Load is never refused: the length alone decides. -/
theorem hostLoad_hostReset (s : State) (bytes : List Byte) :
    s.hostReset.hostLoad bytes = if bytes.length ≤ 3232 then .next (s.hostReset.placeProgram bytes)
      else .fault (.fatal .programTooLarge (s.hostReset.latchFatal .programTooLarge 0x200#16 0x0000#16)) :=
  if_pos s.isReset_hostReset

theorem hostLoad_hostReset_eq_next (h : s.hostReset.hostLoad bytes = .next t) :
    bytes.length ≤ 3232 ∧ t = s.hostReset.placeProgram bytes := by
  rw [hostLoad_hostReset] at h
  split at h
  · next hlen => cases h; exact ⟨hlen, rfl⟩
  · cases h

theorem State.placeProgram_plen_val (s : State) (h : bytes.length ≤ 3232) :
    (s.placeProgram bytes).plen.val = bytes.length :=
  Nat.mod_eq_of_lt (Nat.lt_succ_of_le h)

/-- Placing a program is a store at 0x200 and a jump there, but for PLEN. -/
theorem State.placeProgram_frame (s : State) (bytes : List Byte) :
    Frame { mem := (List.range bytes.length).map fun k => 0x200 + k }
      { s with plen := (s.placeProgram bytes).plen } (s.placeProgram bytes) :=
  ((Frame.refl _ _).store fun k hk => List.mem_map.2 ⟨k, List.mem_range.2 hk, rfl⟩).jump _

/-- Settles O51: the length decides between the two clauses; the placed bytes are read back where they were stored. -/
theorem loadPlacesTheProgram : Obligations.LoadPlacesTheProgram := by
  intro s bytes
  refine ⟨fun hfits => ?_, fun hlarge => ?_⟩
  · exact ⟨s.hostReset.placeProgram bytes, (hostLoad_hostReset s bytes).trans (if_pos hfits),
      fun k hk => Memory.read_writeBytes_inside _ _ k bytes hk, State.placeProgram_plen_val _ hfits, rfl,
      State.placeProgram_frame _ bytes⟩
  · exact (hostLoad_hostReset s bytes).trans (if_neg (Nat.not_le_of_lt hlarge))

end LoadAfterReset

/-! ### Where no step is enabled (R245) -/

section NotEnabled

theorem State.pcInProgram_eq_false_iff (s : State) :
    s.pcInProgram = false ↔ s.pc.toNat < 0x200 ∨ 0x200 + s.plen.val ≤ s.pc.toNat := by
  rw [← Bool.not_eq_true, State.pcInProgram_iff]
  omega

theorem step_of_pc_outside {s : State} (hfatal : s.fatal = none) (hpc : s.pcInProgram = false) :
    step s = .fault (.halted s) := by
  rcases step_cases s with ⟨henabled, -⟩ | ⟨-, -, hstep⟩ | ⟨hne, -⟩
  · simp [State.stepEnabled, hpc] at henabled
  · exact hstep
  · exact absurd hfatal hne

/-- Settles O7: the two ways in which the enabling condition fails. -/
theorem stepIsStuckWhereNotEnabled : Obligations.StepIsStuckWhereNotEnabled := fun s =>
  ⟨step_of_fatal, fun hfatal hpc => step_of_pc_outside hfatal (s.pcInProgram_eq_false_iff.2 hpc)⟩

end NotEnabled

/-! ### The states of a run (R246) -/

section Runs

variable {s : State}

/-- A program that fits lies inside memory, so placing it keeps the canonical form. -/
theorem inv_placeProgram {bytes : List Byte} (hs : Inv s) (hlen : bytes.length ≤ 3232) :
    Inv (s.placeProgram bytes) where
  mem := by
    have hend : 0x200 + bytes.length ≤ 4096 := by omega
    exact Memory.wf_writeBytes s.mem 0x200 bytes hs.mem (.inr hend)
  fatal := hs.fatal
  events := hs.events

theorem inv_timerTick (hs : Inv s) : Inv s.timerTick := { hs with }

/-- Settles O20, by induction on the run: Load establishes the invariant; steps and ticks keep it. -/
theorem everyReachableStateMeetsTheInvariant : Obligations.EveryReachableStateMeetsTheInvariant := by
  intro s hs
  induction hs with
  | loaded s t bytes hload =>
    obtain ⟨hlen, rfl⟩ := hostLoad_hostReset_eq_next hload
    exact inv_placeProgram (inv_hostReset s) hlen
  | stepped s t _ hstep ih => exact stepKeepsTheInvariant s t ih hstep
  | ticked s _ ih => exact inv_timerTick ih

/-- PROGRAM_TOO_LARGE is no instruction's cause: it is the host's (R201). -/
theorem raises_cause {i : Instr} {c : FatalCause} (h : raises i s = some c) :
    c = .stackOverflow ∨ c = .stackUnderflow ∨ c = .memOutOfBounds := by
  cases c
  case programTooLarge => cases i <;> simp [raises] at h
  all_goals simp

/-- An instruction completes, or latches one of the three causes it can raise. -/
theorem exec_eq_next_or_fatal (i : Instr) (s : State) :
    (∃ t, exec i s = .next t) ∨
    ∃ c t, exec i s = .fault (.fatal c t) ∧ t.fatal = some c ∧
      (c = .stackOverflow ∨ c = .stackUnderflow ∨ c = .memOutOfBounds) := by
  rcases answersAsTable i s with ⟨-, hnext⟩ | ⟨c, hsome, hraise⟩
  · exact .inl hnext
  · exact .inr ⟨c, _, hraise, rfl, raises_cause hsome⟩

/-- Settles O21: the invariant leaves a state of a run no latched cause, so it is enabled or PC is outside the
program; an enabled step is the instruction's. -/
theorem everyRunGoesOnHaltsOrIsFatal : Obligations.EveryRunGoesOnHaltsOrIsFatal := by
  intro s hs
  have hfatal : s.fatal = none := (everyReachableStateMeetsTheInvariant s hs).fatal
  rcases step_cases s with ⟨-, hstep⟩ | ⟨-, hpc, hstep⟩ | ⟨hne, -⟩
  · rw [hstep]
    exact (exec_eq_next_or_fatal _ _).imp_right .inr
  · exact .inr (.inl ⟨hstep, s.pcInProgram_eq_false_iff.1 hpc⟩)
  · exact absurd hfatal hne

end Runs

end Sys2Proof.Machine
